-- ==== Sys2Proof/Word.lean ====
section
/-! DEFINITION. The block's widths as types (00_scope.md R5), and nothing else. -/

namespace Sys2Proof

/-- A 32-bit value: the accumulator and `hash_out` (00_scope.md R5, ACC_W). -/
abbrev Word := BitVec 32

/-- One 16-bit input value (00_scope.md R5 UNIT_W, R11). -/
abbrev CodeUnit := BitVec 16

/-- The 16-bit value the fold stage gives (00_scope.md R5, FOLD_W). -/
abbrev FoldedOffset := BitVec 16

/-- The 18-bit command word (00_scope.md R5 CMD_W, 30_encoding.md R33). -/
abbrev CmdWord := BitVec 18

/-- The 2-bit field `op = cmd_word[17:16]` (30_encoding.md R33). -/
abbrev OpField := BitVec 2

end Sys2Proof
end

