-- ==== Sys2Proof/Config.lean ====
section
/-! DEFINITION. The form of the block's constants record (00_scope.md R6). Its only admitted value is
`Sys2Proof.Machine.constants`. No other parameter is open to an implementation (00_scope.md R7). -/

namespace Sys2Proof

/-- The numeric constants of the algorithm, named as 00_scope.md R6 names them. -/
structure Constants where
  /-- SEED: initial accumulator value. -/
  seed : Nat
  /-- OFFSET: subtracted from every code unit. -/
  offset : Nat
  /-- WRAP: added when the offset is negative. -/
  wrap : Nat
  /-- FOLD_MAX: top of the fold window. -/
  foldMax : Nat
  /-- FOLD_ADD: added inside the fold window. -/
  foldAdd : Nat
  /-- SHIFT: left-shift amount of the update. -/
  shift : Nat
  /-- MULT: the multiplier the update realises. -/
  mult : Nat
deriving DecidableEq, Repr

end Sys2Proof
end

