-- ==== Sys2Proof/Machine/Constants.lean ====
section
/-! DEFINITION. The one admitted value of the constants record (00_scope.md R6). -/

namespace Sys2Proof.Machine

/-- The constants of 00_scope.md R6, normative as the spec gives them (92_eei_decisions.md D31, log entry 11). -/
def constants : Constants :=
  { seed := 5381, offset := 65, wrap := 256, foldMax := 25, foldAdd := 32, shift := 5, mult := 33 }

/-- `zext_32(SEED)`, the value that INIT and `rst` load (40_control.md R47, 70_reset_and_hazards.md R79). -/
def seedWord : Word := BitVec.ofNat 32 constants.seed

end Sys2Proof.Machine
end

