-- ==== Sys2Proof/Machine/Fold.lean ====
section
/-! DEFINITION. The ASCII case-folding stage (41_fold_stage.md R50, R51). It computes on integers (00_scope.md R10). -/

namespace Sys2Proof.Machine

/-- Step 2(a): the offset from 'A' (41_fold_stage.md R51). -/
def offsetFromA (c : CodeUnit) : Int := (c.toNat : Int) - (constants.offset : Int)

/-- Step 2(b): a negative offset is raised by WRAP, once; no modulus (41_fold_stage.md R51, R57). -/
def raiseNegative (ch : Int) : Int := if ch < 0 then ch + (constants.wrap : Int) else ch

/-- Step 2(c): an offset that step 2(b) left at or below FOLD_MAX is raised by FOLD_ADD (41_fold_stage.md R51). -/
def foldWindow (ch : Int) : Int := if ch ≤ (constants.foldMax : Int) then ch + (constants.foldAdd : Int) else ch

/-- `Fold(c)`, returned as an unsigned 16-bit value (41_fold_stage.md R51). -/
def fold (c : CodeUnit) : FoldedOffset := BitVec.ofInt 16 (foldWindow (raiseNegative (offsetFromA c)))

end Sys2Proof.Machine
end

