-- ==== Sys2Proof/Machine/Mix.lean ====
section
/-! DEFINITION. The rolling-hash update and the string-level hash (42_feed.md R59 to R63), on 32-bit vectors. -/

namespace Sys2Proof.Machine

/-- `s`: the shift, bits past bit 31 discarded (42_feed.md R60). -/
def mixShift (h : Word) : Word := h <<< constants.shift

/-- `m`: the shifted value plus the UNSHIFTED `h` (42_feed.md R60, 90_conflicts.md C1). -/
def mixAdd (h : Word) : Word := mixShift h + h

/-- `Mix(h, f)` (42_feed.md R60). -/
def mix (h : Word) (f : FoldedOffset) : Word := mixAdd h ^^^ f.setWidth 32

/-- Folding one code unit and mixing it in: FEED's effect on the value of ACC (42_feed.md R62). -/
def absorb (h : Word) (c : CodeUnit) : Word := mix h (fold c)

/-- The loop of `H`, from any accumulator value (42_feed.md R63, R65). -/
def hashFrom (h : Word) (us : List CodeUnit) : Word := us.foldl absorb h

/-- The string-level hash `H` (42_feed.md R63). -/
def stringHash (us : List CodeUnit) : Word := hashFrom seedWord us

end Sys2Proof.Machine
end

