-- ==== Sys2Proof/Machine/State.lean ====
section
/-! DEFINITION. The state of the block and of its model (10_state.md R13 to R22, 60_exceptions.md R70), as plain data. -/

namespace Sys2Proof.Machine

/-- What ACC holds: "`ACC : UInt32 or unwritten`" (10_state.md R14). "Unwritten" is the spec's own value of the
register from power-up to the first `rst` or INIT (70_reset_and_hazards.md R80), not a missing reset value. -/
inductive Accumulator where
  /-- No value yet (70_reset_and_hazards.md R80). -/
  | unwritten
  /-- A 32-bit unsigned value (10_state.md R13). -/
  | written (v : Word)
deriving DecidableEq, Repr

/-- What the host drives on the input ports in one clock cycle (10_state.md R22). `hostWord` is the number in the
host's buffer: the port carries its low 18 bits, and a number that does not fit is no command (30_encoding.md R45). -/
structure PortCycle where
  rst : Bool
  cmdValid : Bool
  hostWord : Nat
deriving DecidableEq, Repr

/-- Why the model stops with a fault. -/
inductive Fault where
  /-- "read of unwritten ACC": raised by a FEED and by an observation of `hash_out` while ACC is unwritten
  (70_reset_and_hazards.md R80). Safe: no claim can rest on a power-up value. -/
  | readOfUnwrittenAcc
deriving DecidableEq, Repr

/-- Why the model gives a word no meaning. -/
inductive Refusal where
  /-- Raised by no instruction of this model: an instruction without a meaning yet. Safe. -/
  | notModelled (mnemonic : String)
  /-- Raised by a reserved command at its accepting edge; names the command index and the word (60_exceptions.md R70).
  Safe: claims hold only of streams without reserved commands. -/
  | reservedCommand (k : Nat) (word : CmdWord)
  /-- Raised at an accepting edge by a host word with a bit above 17 set (30_encoding.md R45); names the index that
  the next command would have, and the word. Safe. -/
  | wideHostWord (k : Nat) (word : Nat)
deriving DecidableEq, Repr

/-- The whole state. -/
structure State where
  /-- ACC, the only register of the block (10_state.md R13, R14, R15). -/
  acc : Accumulator
  /-- The refusal mark: which refusal was made, if one was (60_exceptions.md R70). -/
  refusalMark : Option Refusal
  /-- `k`: how many commands have been accepted; the model's, not architectural (10_state.md R16). -/
  accepted : Nat
  /-- The values of the input ports, this cycle's first, then those of later cycles; the model's own (log entry 2). -/
  inputs : List PortCycle
deriving DecidableEq, Repr

/-- The block right after an edge with `rst = 1` (70_reset_and_hazards.md R79), in a model run that has accepted
and refused nothing (10_state.md R16, section 5), with nothing scheduled by the host (log entry 2). -/
def State.reset : State :=
  { acc := .written seedWord, refusalMark := none, accepted := 0, inputs := [] }

/-- The block at power-up: ACC unwritten (70_reset_and_hazards.md R80), the rest as at model start. -/
def State.powerUp : State :=
  { acc := .unwritten, refusalMark := none, accepted := 0, inputs := [] }

end Sys2Proof.Machine
end

