-- ==== Sys2Proof/Machine/Ops.lean ====
section
/-! DEFINITION. The named operations over the state: reading and writing ACC, observing `hash_out`, counting a
command, keeping a refusal. The block has no exception to take and none to return from (60_exceptions.md R69, R73, R74). -/

namespace Sys2Proof.Machine

/-- A read of ACC; a read while it is unwritten faults (70_reset_and_hazards.md R80). -/
def readAcc (s : State) : Except Fault Word :=
  match s.acc with
  | .unwritten => .error .readOfUnwrittenAcc
  | .written h => .ok h

/-- `ACC <- v` (00_scope.md R9). -/
def writeAcc (v : Word) (s : State) : State := { s with acc := .written v }

/-- `ACC <- zext_32(SEED)`, the effect that INIT and `rst` share (40_control.md R47, 70_reset_and_hazards.md R79). -/
def loadSeed (s : State) : State := writeAcc seedWord s

/-- An observation of `hash_out`: ACC, without side effect (10_state.md R19); a fault while ACC is unwritten
(70_reset_and_hazards.md R80). -/
def hashOut (s : State) : Except Fault Word := readAcc s

/-- A command has been accepted: `k` advances by exactly 1 (10_state.md R16). -/
def countAccepted (s : State) : State := { s with accepted := s.accepted + 1 }

/-- What the host drives on the ports from now on: this cycle's values are used up at an edge (10_state.md R22). -/
def setInputs (ps : List PortCycle) (s : State) : State := { s with inputs := ps }

/-- The number of accepted commands once a refusal is made: a refused reserved command was itself accepted
(60_exceptions.md R70), a wide host word is no command (30_encoding.md R45). -/
def acceptedAfterRefusal (r : Refusal) (k : Nat) : Nat :=
  match r with
  | .reservedCommand i _ => i + 1
  | _ => k

/-- What the model keeps when it refuses: the mark is set, and ACC has no value the model vouches for
(60_exceptions.md R70, 00_scope.md R9; log entry 4). -/
def markRefused (r : Refusal) (s : State) : State :=
  { s with acc := .unwritten, refusalMark := some r, accepted := acceptedAfterRefusal r s.accepted }

/-- Go on from an outcome when it is a next state; a fault or a refusal ends the run. -/
def andThen (o : Host.Outcome State Fault Refusal) (f : State → Host.Outcome State Fault Refusal) :
    Host.Outcome State Fault Refusal :=
  match o with
  | .next s => f s
  | .fault r => .fault r
  | .refused r => .refused r

/-- The state the model holds after an outcome reached from `s`: the next state; the marked state of a refusal
(60_exceptions.md R70); the same state after a fault (log entry 6). -/
def stateAfter (s : State) (o : Host.Outcome State Fault Refusal) : State :=
  match o with
  | .next t => t
  | .fault _ => s
  | .refused r => markRefused r s

end Sys2Proof.Machine
end

