-- ==== Sys2Proof/Syntax.lean ====
section
/-! DEFINITION. The commands of the block, one constructor for each row of spec/opcode_table.json (30_encoding.md R35). -/

namespace Sys2Proof

/-- One command. NOP, INIT and the reserved commands carry the 16 `data` bits of their word although no effect
uses them (30_encoding.md R36), so that a command stands for exactly one word (log entry 7). -/
inductive Instr where
  /-- NOP, `op = 0b00`: no operation (40_control.md R46). -/
  | nop (data : CodeUnit)
  /-- INIT, `op = 0b01`: start a new hash (40_control.md R47). -/
  | init (data : CodeUnit)
  /-- FEED, `op = 0b10`: fold and accumulate the code unit `c` (42_feed.md R62). -/
  | feed (c : CodeUnit)
  /-- A reserved command, `op = 0b11` (30_encoding.md R37, 60_exceptions.md R70). -/
  | reserved (data : CodeUnit)
deriving DecidableEq, Repr

end Sys2Proof
end

