-- ==== Sys2Proof/Machine/Control.lean ====
section
/-! DEFINITION. The control commands NOP and INIT (40_control.md). -/

namespace Sys2Proof.Machine

/-- NOP: `ACC <- ACC`, unwritten stays unwritten, `data` ignored (40_control.md R46, 30_encoding.md R36). -/
def execNop (_data : CodeUnit) (s : State) : Host.Outcome State Fault Refusal := .next s

/-- INIT: `ACC <- zext_32(SEED)`, whatever ACC held, `data` ignored (40_control.md R47, 30_encoding.md R36). -/
def execInit (_data : CodeUnit) (s : State) : Host.Outcome State Fault Refusal := .next (loadSeed s)

end Sys2Proof.Machine
end

