-- ==== Sys2Proof/Machine/Feed.lean ====
section
/-! DEFINITION. The command FEED (42_feed.md). -/

namespace Sys2Proof.Machine

/-- FEED c: `ACC <- Mix(ACC, Fold(c))` (42_feed.md R62); reading ACC while it is unwritten faults
(70_reset_and_hazards.md R80). -/
def execFeed (c : CodeUnit) (s : State) : Host.Outcome State Fault Refusal :=
  match readAcc s with
  | .ok h => .next (writeAcc (absorb h c) s)
  | .error e => .fault e

end Sys2Proof.Machine
end

