-- ==== Sys2Proof/WellFormed.lean ====
section
/-! DEFINITION. What a host may present as a command: the checks of 30_encoding.md R37 and R45. -/

namespace Sys2Proof

/-- A host must never present a reserved word with `cmd_valid = 1` (30_encoding.md R37); every NOP, INIT and FEED
is legal with any `data` (R36, 60_exceptions.md R69). -/
def Instr.wellFormed : Instr → Bool
  | .nop _ => true
  | .init _ => true
  | .feed _ => true
  | .reserved _ => false

/-- A word of a host's buffer is a command word of this block only when no bit above 17 is set (30_encoding.md R45). -/
def hostWordFits (n : Nat) : Bool := decide (n < 2 ^ 18)

end Sys2Proof
end

