-- ==== Sys2Proof/Decode.lean ====
section
/-! DEFINITION. Reading a command from a word and writing a command as a word (30_encoding.md R33 to R40, R45). -/

namespace Sys2Proof

/-- Why a host's word is no command. -/
inductive DecodeReject where
  /-- Raised by `decode` on a word with a bit above 17 set (30_encoding.md R45). Safe: the model stops. -/
  | wideHostWord (word : Nat)
deriving DecidableEq, Repr

/-- `op = cmd_word[17:16]` (30_encoding.md R33). -/
def opField (w : CmdWord) : OpField := w.extractLsb' 16 2

/-- `data = cmd_word[15:0]`, the code unit unchanged (30_encoding.md R33, R34). -/
def dataField (w : CmdWord) : CodeUnit := w.extractLsb' 0 16

/-- The opcode map: the decoder looks only at `op` (30_encoding.md R35). -/
def decodeFields (op : OpField) (data : CodeUnit) : Instr :=
  match op with
  | 0b00#2 => .nop data
  | 0b01#2 => .init data
  | 0b10#2 => .feed data
  | 0b11#2 => .reserved data

/-- The command that an 18-bit word is; total (30_encoding.md R35). -/
def decodeWord (w : CmdWord) : Instr := decodeFields (opField w) (dataField w)

/-- The command that a host's word is, or why it is none (30_encoding.md R45). -/
def decode (n : Nat) : Except DecodeReject Instr :=
  if hostWordFits n then .ok (decodeWord (BitVec.ofNat 18 n)) else .error (.wideHostWord n)

/-- The `op` bits of a command (30_encoding.md R35). -/
def Instr.op : Instr → OpField
  | .nop _ => 0b00#2
  | .init _ => 0b01#2
  | .feed _ => 0b10#2
  | .reserved _ => 0b11#2

/-- The `data` bits of a command (30_encoding.md R33, R34). -/
def Instr.data : Instr → CodeUnit
  | .nop d => d
  | .init d => d
  | .feed c => c
  | .reserved d => d

/-- The word of a command: `op ++ data` (30_encoding.md R33). -/
def encode (i : Instr) : CmdWord := (i.op ++ i.data).cast (by decide)

/-- The command the decoder reads from the bits that spec/opcode_table.json numbers: the word is one parallel
value with bit 0 least significant (20_memory.md R25, R26), and every bit from `nbits` on is 0. -/
def decodeTableWord (nbits w : Nat) : Option Instr := (decode (w % 2 ^ nbits)).toOption

/-- One row of the opcode map: a word is the row's when the bits under the mask are the pattern (30_encoding.md R35). -/
structure OpcodeRow where
  mnemonic : String
  mask : CmdWord
  pattern : CmdWord
deriving DecidableEq, Repr

/-- Whether a word is of the row. -/
def OpcodeRow.matches (r : OpcodeRow) (w : CmdWord) : Bool := w &&& r.mask == r.pattern

/-- The whole opcode map, as the rows of spec/opcode_table.json (30_encoding.md R35). -/
def opcodeRows : List OpcodeRow :=
  [⟨"NOP", 0x30000#18, 0x00000#18⟩, ⟨"INIT", 0x30000#18, 0x10000#18⟩,
   ⟨"FEED", 0x30000#18, 0x20000#18⟩, ⟨"(reserved)", 0x30000#18, 0x30000#18⟩]

/-- The mnemonic of a command, as the opcode map spells it (30_encoding.md R35). -/
def Instr.mnemonic : Instr → String
  | .nop _ => "NOP"
  | .init _ => "INIT"
  | .feed _ => "FEED"
  | .reserved _ => "(reserved)"

end Sys2Proof
end

