-- ==== Sys2Proof/Machine/Reserved.lean ====
section
/-! DEFINITION. The reserved commands, `op = 0b11` (30_encoding.md R37, 60_exceptions.md R70). -/

namespace Sys2Proof.Machine

/-- A reserved command: the model refuses it and names the command index and the word (60_exceptions.md R70). -/
def execReserved (data : CodeUnit) (s : State) : Host.Outcome State Fault Refusal :=
  .refused (.reservedCommand s.accepted (encode (.reserved data)))

end Sys2Proof.Machine
end

