-- ==== Sys2Proof/Machine/Dispatch.lean ====
section
/-! DEFINITION. One arm for each constructor of Instr (30_encoding.md R35). -/

namespace Sys2Proof.Machine

def exec (i : Instr) (s : State) : Host.Outcome State Fault Refusal :=
  match i with
  | .nop data => Sys2Proof.Machine.execNop data s
  | .init data => Sys2Proof.Machine.execInit data s
  | .feed c => Sys2Proof.Machine.execFeed c s
  | .reserved data => Sys2Proof.Machine.execReserved data s

end Sys2Proof.Machine
end

