-- ==== Sys2Proof/Machine/Ports.lean ====
section
/-! DEFINITION. What the input ports say in one cycle (10_state.md R20, R22; 30_encoding.md R40). -/

namespace Sys2Proof.Machine

/-- A cycle in which the host presents nothing (30_encoding.md R40). -/
def PortCycle.idle : PortCycle := { rst := false, cmdValid := false, hostWord := 0 }

/-- A cycle in which the host presents a command. -/
def PortCycle.present (i : Instr) : PortCycle := { rst := false, cmdValid := true, hostWord := (encode i).toNat }

/-- A cycle in which the host holds `rst` (70_reset_and_hazards.md R79). -/
def PortCycle.reset : PortCycle := { rst := true, cmdValid := false, hostWord := 0 }

/-- `cmd_word[17:0]`, the bits on the port (10_state.md R22). -/
def PortCycle.cmdWord (p : PortCycle) : CmdWord := BitVec.ofNat 18 p.hostWord

/-- `fold_out[15:0]` = Fold(cmd_word[15:0]), from the ports alone (10_state.md R20, 41_fold_stage.md R50). -/
def PortCycle.foldOut (p : PortCycle) : FoldedOffset := fold (dataField p.cmdWord)

/-- A word is accepted at an edge with `cmd_valid = 1` and `rst = 0` (30_encoding.md R40, 70_reset_and_hazards.md R87). -/
def PortCycle.accepts (p : PortCycle) : Bool := !p.rst && p.cmdValid

/-- The command accepted at the cycle's edge, if there is one (30_encoding.md R40, R45). -/
def PortCycle.command (p : PortCycle) : Option Instr := if p.accepts then (decode p.hostWord).toOption else none

/-- `fold_out` in this cycle; none where the host has not decided what it drives (log entry 14). -/
def foldOut (s : State) : Option FoldedOffset := s.inputs.head?.map PortCycle.foldOut

end Sys2Proof.Machine
end

