-- ==== Sys2Proof/Machine/Clock.lean ====
section
/-! DEFINITION. The block's next-state function at each rising edge of `clk` (70_reset_and_hazards.md R85), and the
step of the untimed model: one accepted command (R89, 92_eei_decisions.md D32). -/

namespace Sys2Proof.Machine

/-- The edge that accepts a host's word: its command is executed and counted (30_encoding.md R40, 10_state.md R16);
a word wider than 18 bits is no command and is refused (30_encoding.md R45). -/
def acceptWord (n : Nat) (s : State) : Host.Outcome State Fault Refusal :=
  match decode n with
  | .ok i => andThen (exec i s) (fun t => .next (countAccepted t))
  | .error _ => .refused (.wideHostWord s.accepted n)

/-- One rising edge with the ports at `p` (70_reset_and_hazards.md R85): `rst` first (60_exceptions.md R72), then an
idle cycle without decoding (30_encoding.md R40), then the command. A refusal mark has ended the run (R70). -/
def edgeOn (p : PortCycle) (s : State) : Host.Outcome State Fault Refusal :=
  match s.refusalMark with
  | some r => .refused r
  | none =>
    if p.rst then .next (loadSeed s)
    else if p.cmdValid then acceptWord p.hostWord s
    else .next s

/-- One rising edge of `clk`: the ports' values of this cycle are used up; where the host has decided on no
more cycles the cycle is idle (log entry 2). -/
def edge (s : State) : Host.Outcome State Fault Refusal :=
  match s.inputs with
  | [] => edgeOn PortCycle.idle s
  | p :: ps => edgeOn p (setInputs ps s)

/-- `n` rising edges, stopping at the first fault or refusal. -/
def runEdges : Nat → State → Host.Outcome State Fault Refusal
  | 0, s => .next s
  | n + 1, s => andThen (edge s) (runEdges n)

/-- The commands of a list in order, each run on the state that the one before left and then counted: what the
order of acceptance means, without ports and without a clock (20_memory.md R30, 10_state.md R16). -/
def execAll : List Instr → State → Host.Outcome State Fault Refusal
  | [], s => .next s
  | i :: is, s => andThen (exec i s) (fun t => execAll is (countAccepted t))

/-- The state the model holds after a rising edge, a refusal's mark included (60_exceptions.md R70). -/
def afterEdge (s : State) : State := stateAfter s (edge s)

/-- The state the model holds after `n` rising edges. -/
def afterEdges : Nat → State → State
  | 0, s => s
  | n + 1, s => afterEdges n (afterEdge s)

/-- The edges of the cycles `ps`, up to and with the first one that accepts a word; where none does, all of
them (70_reset_and_hazards.md R89: a step is one accepted command, idle cycles are not steps; log entry 1). -/
def stepThrough : List PortCycle → State → Host.Outcome State Fault Refusal
  | [], s => edgeOn PortCycle.idle (setInputs [] s)
  | p :: ps, s =>
    if p.accepts then edgeOn p (setInputs ps s)
    else andThen (edgeOn p (setInputs ps s)) (stepThrough ps)

/-- The ports present the word `n` as a command in the next cycle, before everything else the host drives. -/
def presentWord (n : Nat) (s : State) : State :=
  setInputs ({ rst := false, cmdValid := true, hostWord := n } :: s.inputs) s

/-- The ports present, in the next cycle, the command whose bits are `w`, every bit from `nbits` on being 0. -/
def presentTableWord (nbits w : Nat) (s : State) : State := presentWord (w % 2 ^ nbits) s

end Sys2Proof.Machine
end

