-- ==== Sys2Proof/Machine/Step.lean ====
section
/-! DEFINITION. The step of the machine, and how a command is put where the next step takes it. -/

namespace Sys2Proof.Machine

/-- One step: one accepted command, with the reset and idle cycles before it (70_reset_and_hazards.md R89, log entry 1). -/
def step (s : State) : Host.Outcome State Fault Refusal := stepThrough s.inputs s

/-- The block fetches nothing (10_state.md R16): the next step takes the word the host presents next. -/
def State.withFetchWord (s : State) (nbits w : Nat) : State := presentTableWord nbits w s

end Sys2Proof.Machine
end

