-- ==== Sys2Proof/Machine/Assembler.lean ====
section
/-! DEFINITION. The assembly language (30_encoding.md R41 to R44) and the listing of words (R45): host-side notation,
on lists of characters. What R41 and R42 leave open about the text is log entry 9. -/

namespace Sys2Proof.Machine

/-- One character or escape of a quoted text (30_encoding.md R43). -/
inductive TextItem where
  /-- A character, written as itself or by one of the escapes for a quote and a backslash. -/
  | char (c : Char)
  /-- One code unit, written by the zero escape or by four hexadecimal digits. -/
  | unit (u : CodeUnit)
deriving DecidableEq, Repr

/-- One line of assembly with a command or a pseudo-instruction on it (30_encoding.md R41, R43, R44). -/
inductive AsmLine where
  | nop
  | init
  | feed (operand : Nat)
  | feeds (text : List TextItem)
  | hash (text : List TextItem)
deriving DecidableEq, Repr

/-- Why the assembler refuses a line (30_encoding.md R41). -/
inductive AsmError where
  /-- The first word of the line is no mnemonic; there is none for `op = 0b11`. -/
  | unknownMnemonic
  /-- A FEED, FEEDS or HASH without a readable operand. -/
  | badOperand
  /-- A FEED operand outside 0..65535. -/
  | operandRange
  /-- Something other than a comment follows the command. -/
  | trailingText
deriving DecidableEq, Repr

/-- The UTF-16 code units of a character, the high surrogate first (30_encoding.md R43; the surrogates' formula is
PRESUMED, log entry 10). -/
def utf16Units (c : Char) : List CodeUnit :=
  if c.toNat < 0x10000 then [BitVec.ofNat 16 c.toNat]
  else [BitVec.ofNat 16 (0xD800 + (c.toNat - 0x10000) / 0x400), BitVec.ofNat 16 (0xDC00 + (c.toNat - 0x10000) % 0x400)]

/-- The code units of a text, from first to last (30_encoding.md R43). -/
def textUnits (text : List TextItem) : List CodeUnit :=
  text.flatMap fun item =>
    match item with
    | .char c => utf16Units c
    | .unit u => [u]

/-- The operand check of the assembler (30_encoding.md R41). -/
def AsmLine.wellFormed : AsmLine → Bool
  | .feed operand => decide (operand < 65536)
  | _ => true

/-- The commands that a line stands for; NOP and INIT with `data = 0` (30_encoding.md R36, R41, R43, R44). -/
def AsmLine.commands : AsmLine → List Instr
  | .nop => [.nop 0]
  | .init => [.init 0]
  | .feed operand => [.feed (BitVec.ofNat 16 operand)]
  | .feeds text => (textUnits text).map Instr.feed
  | .hash text => .init 0 :: (textUnits text).map Instr.feed

/-- The words of a line, or the refusal of its operand (30_encoding.md R41). -/
def assembleLine (l : AsmLine) : Except AsmError (List CmdWord) :=
  if l.wellFormed then .ok (l.commands.map encode) else .error .operandRange

/-- Blanks between the parts of a line. -/
def isBlank (c : Char) : Bool := c == ' ' || c == '\t' || c == '\r'

/-- Only blanks or a comment are left of the line (30_encoding.md R41). -/
def restIsComment (cs : List Char) : Bool :=
  match cs.dropWhile isBlank with
  | [] => true
  | c :: _ => c == ';'

/-- The value of a digit in base 10 or 16. -/
def digitValue (base : Nat) (c : Char) : Option Nat :=
  if '0' ≤ c ∧ c ≤ '9' then some (c.toNat - 48)
  else if base = 16 ∧ 'a' ≤ c ∧ c ≤ 'f' then some (c.toNat - 87)
  else if base = 16 ∧ 'A' ≤ c ∧ c ≤ 'F' then some (c.toNat - 55)
  else none

/-- Read digits as far as they go, onto the value read so far. -/
def readDigits (base : Nat) : Nat → List Char → Nat × List Char
  | v, [] => (v, [])
  | v, c :: cs =>
    match digitValue base c with
    | some d => readDigits base (v * base + d) cs
    | none => (v, c :: cs)

/-- A `<u16>` operand: a character literal, a hexadecimal number or a decimal number (30_encoding.md R42). -/
def parseOperand : List Char → Option (Nat × List Char)
  | '\'' :: '\\' :: '0' :: '\'' :: rest => some (0, rest)
  | '\'' :: c :: '\'' :: rest => if c.toNat < 0x10000 then some (c.toNat, rest) else none
  | '0' :: 'x' :: c :: cs => if (digitValue 16 c).isSome then some (readDigits 16 0 (c :: cs)) else none
  | c :: cs => if (digitValue 10 c).isSome then some (readDigits 10 0 (c :: cs)) else none
  | [] => none

/-- Put one item before the items already read. -/
def consItem (item : TextItem) : Option (List TextItem × List Char) → Option (List TextItem × List Char)
  | some (items, rest) => some (item :: items, rest)
  | none => none

/-- The code unit of four hexadecimal digits (30_encoding.md R43). -/
def hexUnit (a b c d : Char) : Option CodeUnit :=
  match digitValue 16 a, digitValue 16 b, digitValue 16 c, digitValue 16 d with
  | some x, some y, some z, some w => some (BitVec.ofNat 16 (((x * 16 + y) * 16 + z) * 16 + w))
  | _, _, _, _ => none

/-- A text up to its closing quote, with the escapes of 30_encoding.md R43. -/
def parseText : List Char → Option (List TextItem × List Char)
  | [] => none
  | '"' :: rest => some ([], rest)
  | '\\' :: '"' :: rest => consItem (.char '"') (parseText rest)
  | '\\' :: '\\' :: rest => consItem (.char '\\') (parseText rest)
  | '\\' :: '0' :: rest => consItem (.unit 0) (parseText rest)
  | '\\' :: 'u' :: a :: b :: c :: d :: rest =>
    match hexUnit a b c d with
    | some u => consItem (.unit u) (parseText rest)
    | none => none
  | '\\' :: _ => none
  | c :: rest => consItem (.char c) (parseText rest)

/-- A line that takes no operand. -/
def finishLine (l : AsmLine) (rest : List Char) : Except AsmError (Option AsmLine) :=
  if restIsComment rest then .ok (some l) else .error .trailingText

/-- A FEED line after its mnemonic (30_encoding.md R41, R42). -/
def parseFeed (rest : List Char) : Except AsmError (Option AsmLine) :=
  match parseOperand (rest.dropWhile isBlank) with
  | some (n, more) => finishLine (.feed n) more
  | none => .error .badOperand

/-- A FEEDS or HASH line after its mnemonic (30_encoding.md R43, R44). -/
def parseQuoted (make : List TextItem → AsmLine) (rest : List Char) : Except AsmError (Option AsmLine) :=
  match rest.dropWhile isBlank with
  | '"' :: cs =>
    match parseText cs with
    | some (text, more) => finishLine (make text) more
    | none => .error .badOperand
  | _ => .error .badOperand

/-- A character that ends a mnemonic. -/
def endsMnemonic (c : Char) : Bool := isBlank c || c == ';'

/-- One line of source text: a command, or nothing on a blank or comment line; mnemonics are case-insensitive
(30_encoding.md R41). -/
def parseLine (line : List Char) : Except AsmError (Option AsmLine) :=
  let cs := line.dropWhile isBlank
  let name := (cs.takeWhile fun c => !endsMnemonic c).map Char.toUpper
  let rest := cs.dropWhile fun c => !endsMnemonic c
  if restIsComment cs then .ok none
  else if name = ['N', 'O', 'P'] then finishLine .nop rest
  else if name = ['I', 'N', 'I', 'T'] then finishLine .init rest
  else if name = ['F', 'E', 'E', 'D'] then parseFeed rest
  else if name = ['F', 'E', 'E', 'D', 'S'] then parseQuoted .feeds rest
  else if name = ['H', 'A', 'S', 'H'] then parseQuoted .hash rest
  else .error .unknownMnemonic

/-- The lines of a source text. -/
def splitLines : List Char → List (List Char)
  | [] => [[]]
  | c :: cs =>
    match splitLines cs with
    | [] => [[c]]
    | l :: ls => if c = '\n' then [] :: l :: ls else (c :: l) :: ls

/-- The words of one line of source text. -/
def assembleTextLine (line : List Char) : Except AsmError (List CmdWord) :=
  match parseLine line with
  | .ok (some l) => assembleLine l
  | .ok none => .ok []
  | .error e => .error e

/-- The words of the lines, the first refused line's refusal otherwise. -/
def assembleLines : List (List Char) → Except AsmError (List CmdWord)
  | [] => .ok []
  | l :: ls =>
    match assembleTextLine l with
    | .error e => .error e
    | .ok ws =>
      match assembleLines ls with
      | .error e => .error e
      | .ok more => .ok (ws ++ more)

/-- The words of a source text, one command a line (30_encoding.md R41). -/
def assemble (src : List Char) : Except AsmError (List CmdWord) := assembleLines (splitLines src)

/-- A hexadecimal digit as the listing writes it (30_encoding.md R45). -/
def hexDigit (n : Nat) : Char := Char.ofNat (if n < 10 then 48 + n else 55 + n)

/-- A word in a listing: `0x` and exactly five hexadecimal digits (30_encoding.md R45). -/
def listing (w : CmdWord) : List Char :=
  ['0', 'x', hexDigit (w.toNat / 0x10000), hexDigit (w.toNat / 0x1000 % 16), hexDigit (w.toNat / 0x100 % 16),
   hexDigit (w.toNat / 0x10 % 16), hexDigit (w.toNat % 16)]

end Sys2Proof.Machine
end

