-- ==== Sys2Proof/Machine/AsmText.lean ====
section
/-! DEFINITION. How source text writes a command, an operand and a quoted text (30_encoding.md R41 to R43), as relations
that say nothing of how the assembler reads. What the blanks are, the case of hexadecimal digits and the escapes of a
character literal are log entry 9. -/

namespace Sys2Proof.Machine

/-- Blanks only. -/
def IsGap (cs : List Char) : Prop := ∀ c ∈ cs, c = ' ' ∨ c = '\t'

/-- The end of a line: blanks, and then nothing or a comment, which starts at a semicolon (30_encoding.md R41). -/
def IsLineEnd (cs : List Char) : Prop :=
  ∃ gap rest, IsGap gap ∧ (rest = [] ∨ ∃ text, rest = ';' :: text) ∧ cs = gap ++ rest

/-- A word of a line is the mnemonic, in any case (30_encoding.md R41). -/
def IsMnemonic (mnemonic name : List Char) : Prop := name.map Char.toUpper = mnemonic

/-- The character is the decimal digit of the value. -/
def IsDecimalDigit (d : Nat) (c : Char) : Prop :=
  ['0', '1', '2', '3', '4', '5', '6', '7', '8', '9'][d]? = some c

/-- The character is the hexadecimal digit of the value, in either case. -/
def IsHexDigit (d : Nat) (c : Char) : Prop :=
  ['0', '1', '2', '3', '4', '5', '6', '7', '8', '9', 'A', 'B', 'C', 'D', 'E', 'F'][d]? = some c ∨
    ['0', '1', '2', '3', '4', '5', '6', '7', '8', '9', 'a', 'b', 'c', 'd', 'e', 'f'][d]? = some c

/-- The number that the digits stand for, the most significant first. -/
def digitsValue (base : Nat) (ds : List Nat) : Nat := ds.foldl (fun v d => v * base + d) 0

/-- The text is a number operand: decimal, or hexadecimal after `0x` (30_encoding.md R42). -/
def WritesNumber (cs : List Char) (n : Nat) : Prop :=
  (∃ ds, ds ≠ [] ∧ List.Forall₂ IsDecimalDigit ds cs ∧ n = digitsValue 10 ds) ∨
    (∃ ds hs, ds ≠ [] ∧ List.Forall₂ IsHexDigit ds hs ∧ cs = '0' :: 'x' :: hs ∧ n = digitsValue 16 ds)

/-- The text is a character literal of a code below 0x10000, or the literal of the zero unit (30_encoding.md R42). -/
def WritesCharLiteral (cs : List Char) (n : Nat) : Prop :=
  (∃ c : Char, c.toNat < 0x10000 ∧ cs = ['\'', c, '\''] ∧ n = c.toNat) ∨ (cs = ['\'', '\\', '0', '\''] ∧ n = 0)

/-- The text is a FEED operand of the value (30_encoding.md R42). -/
def WritesOperand (cs : List Char) (n : Nat) : Prop := WritesNumber cs n ∨ WritesCharLiteral cs n

/-- The text writes one item between double quotes: a character as itself, or an escape (30_encoding.md R43). -/
def WritesItem (item : TextItem) (cs : List Char) : Prop :=
  (∃ c : Char, c ≠ '"' ∧ c ≠ '\\' ∧ item = .char c ∧ cs = [c]) ∨
    (item = .char '"' ∧ cs = ['\\', '"']) ∨ (item = .char '\\' ∧ cs = ['\\', '\\']) ∨
    (item = .unit 0 ∧ cs = ['\\', '0']) ∨
    (∃ x y z w a b c d, IsHexDigit x a ∧ IsHexDigit y b ∧ IsHexDigit z c ∧ IsHexDigit w d ∧
      item = .unit (BitVec.ofNat 16 (digitsValue 16 [x, y, z, w])) ∧ cs = ['\\', 'u', a, b, c, d])

end Sys2Proof.Machine
end

