-- ==== Sys2Proof/Machine/Instances.lean ====
section
/-! DEFINITION. Several instances of the block side by side (60_exceptions.md R76, 93_implementation_defined.md I4). -/

namespace Sys2Proof.Machine

/-- A rising edge of instance `j`; the others have no edge. Which instance has the next edge is the schedule's
choice: instances have no common clock in the spec (log entry 12). -/
def edgeOfInstance (j : Nat) (sys : List State) : List State := sys.modify j afterEdge

/-- The edges of a schedule, in order. -/
def runSchedule (schedule : List Nat) (sys : List State) : List State :=
  schedule.foldl (fun cur j => edgeOfInstance j cur) sys

end Sys2Proof.Machine
end

