-- ==== Sys2Proof/Safety.lean ====
section
/-! DEFINITION. What counts as a safe run: the host's duties (70_reset_and_hazards.md R83, R84; 30_encoding.md R37),
and the parts of a stream of cycles that claims name. -/

namespace Sys2Proof.Machine

/-- ACC holds a value. -/
def Accumulator.isWritten : Accumulator → Bool
  | .unwritten => false
  | .written _ => true

/-- A cycle that neither starts a new hash nor stops the model: idle, a NOP, or a FEED (42_feed.md R64, R65). -/
def PortCycle.continuesString (p : PortCycle) : Bool :=
  !p.rst && (!p.cmdValid ||
    match decode p.hostWord with
    | .ok (.nop _) => true
    | .ok (.feed _) => true
    | _ => false)

/-- A cycle that changes nothing: idle, or a NOP (40_control.md R46, R48). -/
def PortCycle.isQuiet (p : PortCycle) : Bool :=
  !p.rst && (!p.cmdValid ||
    match decode p.hostWord with
    | .ok (.nop _) => true
    | _ => false)

/-- A cycle whose edge loads SEED: `rst`, or an accepted INIT (70_reset_and_hazards.md R84). -/
def PortCycle.startsString (p : PortCycle) : Bool :=
  p.rst || (p.cmdValid &&
    match decode p.hostWord with
    | .ok (.init _) => true
    | _ => false)

/-- A cycle the host may drive once ACC is written: no reserved and no wide word with `cmd_valid = 1` and `rst = 0`
(30_encoding.md R37, R45). -/
def PortCycle.isLegal (p : PortCycle) : Bool :=
  !p.accepts ||
    match decode p.hostWord with
    | .ok i => i.wellFormed
    | .error _ => false

/-- The code units of the accepted FEEDs of a stream, in order (42_feed.md R64). -/
def fedUnits (ps : List PortCycle) : List CodeUnit :=
  ps.filterMap fun p =>
    match p.command with
    | some (.feed c) => some c
    | _ => none

/-- The host keeps its duties: no illegal cycle (30_encoding.md R37), and no FEED before ACC is written
(70_reset_and_hazards.md R83). The first argument says whether ACC is written. -/
def keepsDuties : Bool → List PortCycle → Bool
  | _, [] => true
  | w, p :: ps =>
    p.isLegal && (w || (fedUnits [p]).isEmpty) && keepsDuties (w || p.startsString) ps

/-- `n` steps, stopping at the first fault or refusal. -/
def runSteps : Nat → State → Host.Outcome State Fault Refusal
  | 0, s => .next s
  | n + 1, s => andThen (step s) (runSteps n)

/-- The model is running: nothing refused, and ACC holds a value (10_state.md R14, 60_exceptions.md R70). -/
def State.isRunning (s : State) : Bool := s.refusalMark.isNone && s.acc.isWritten

/-- A state from which a host that keeps its duties goes on: nothing refused yet, and the duties kept by
what the host will drive. -/
def State.isSafe (s : State) : Bool :=
  s.refusalMark.isNone && keepsDuties s.acc.isWritten s.inputs

end Sys2Proof.Machine
end

