-- ==== Sys2Proof/Certificates/Slice0/Obligations.lean ====
section
/-! DEFINITION. The statements for the provers, file by file of spec/. None is about a program. A rule that the spec marks
'[derived: ...]' is the spec's own inference: a statement of one says so and has basis 'derived'. -/

open Sys2Proof Sys2Proof.Machine

/-! ## Ports and state (10_state.md) -/

/-- 10_state.md R19: `hash_out` equals ACC, has no path from the inputs, has no value while ACC is unwritten, and
after an edge shows what the edge wrote. -/
def Obligations.HashOutEqualsAcc : Prop :=
  (∀ (s : State) (v : Word), s.acc = .written v → hashOut s = .ok v) ∧
  (∀ s : State, s.acc = .unwritten → hashOut s = .error .readOfUnwrittenAcc) ∧
  (∀ (s : State) (ps : List PortCycle), hashOut { s with inputs := ps } = hashOut s) ∧
  (∀ (s t : State) (v : Word), edge s = .next t → t.acc = .written v → hashOut t = .ok v)

/-- 10_state.md R20: `fold_out` is Fold(cmd_word[15:0]) of the current cycle, whatever `cmd_valid`, the opcode field
and `rst` are, and it depends on no state. -/
def Obligations.FoldOutShowsTheFoldOfTheDataBits : Prop :=
  (∀ (s : State) (p : PortCycle) (ps : List PortCycle), s.inputs = p :: ps →
    foldOut s = some (fold (BitVec.ofNat 16 p.hostWord))) ∧
  (∀ (p : PortCycle) (r v : Bool) (op : OpField),
    PortCycle.foldOut { rst := r, cmdValid := v, hostWord := op.toNat * 0x10000 + (dataField p.cmdWord).toNat } =
      p.foldOut) ∧
  (∀ (s : State) (a : Accumulator) (m : Option Refusal) (k : Nat),
    foldOut { s with acc := a, refusalMark := m, accepted := k } = foldOut s)

/-- 10_state.md section 1 (ACC is written only by INIT, FEED and reset): a command that answers a next state leaves
the command index, the mark and the input ports alone, and NOP leaves ACC alone too. -/
def Obligations.CommandsChangeNothingButAcc : Prop :=
  ∀ (i : Instr) (s t : State), exec i s = .next t →
    t.refusalMark = s.refusalMark ∧ t.accepted = s.accepted ∧ t.inputs = s.inputs ∧
    (t.acc ≠ s.acc → (∃ d, i = .init d) ∨ (∃ c, i = .feed c))

/-- 10_state.md section 2 (the index k): over `n` edges that go on, the index advances by the number of accepting
cycles among them, and each edge uses one cycle of the ports. -/
def Obligations.EdgesCountAcceptedCommands : Prop :=
  ∀ (n : Nat) (s t : State), runEdges n s = .next t →
    t.accepted = s.accepted + (s.inputs.take n).countP PortCycle.accepts ∧ t.inputs = s.inputs.drop n

/-! ## Order (20_memory.md) -/

/-- 20_memory.md R30: commands take effect in the order of acceptance, one in a cycle, each on the state that the
commands before it left. The edges of any cycles without `rst` and without a wide word, idle ones among them, are the
accepted commands run in order, each counted; presented one in each cycle, they are so at the edges and at the
steps. The order of two FEEDs matters (the two values are the rule's). -/
def Obligations.EdgesTakeEffectInOrder : Prop :=
  (∀ (s : State) (qs ps : List PortCycle), s.refusalMark = none → s.inputs = qs ++ ps →
    (∀ q ∈ qs, q.rst = false ∧ (q.cmdValid = true → q.hostWord < 2 ^ 18)) →
    runEdges qs.length s = execAll (qs.filterMap PortCycle.command) { s with inputs := ps }) ∧
  (∀ (s : State) (is : List Instr) (ps : List PortCycle), s.refusalMark = none →
    s.inputs = is.map PortCycle.present ++ ps →
    runEdges is.length s = execAll is { s with inputs := ps } ∧
    runSteps is.length s = execAll is { s with inputs := ps }) ∧
  stringHash [0x61#16, 0x62#16] = 0x00596604#32 ∧ stringHash [0x62#16, 0x61#16] = 0x00596624#32

/-! ## Encoding (30_encoding.md) -/

/-- 30_encoding.md sections 1 and 2: decoding a command's word gives the command back, for every command and every
value of its 16 bits; and the word that a command was read from is that command's word. -/
def Obligations.DecodeAndEncodeAgree : Prop :=
  (∀ i : Instr, decode (encode i).toNat = .ok i) ∧
  (∀ (n : Nat) (i : Instr), decode n = .ok i → (encode i).toNat = n)

/-- 30_encoding.md section 2: every word is of exactly one row of the opcode map, the row of the command the decoder
reads; and each row has 65536 words. -/
def Obligations.EachWordMatchesOneOpcodeRow : Prop :=
  (∀ w : CmdWord, (opcodeRows.filter fun r => r.matches w).map OpcodeRow.mnemonic = [(decodeWord w).mnemonic]) ∧
  (∀ r ∈ opcodeRows, (Finset.univ.filter fun w : CmdWord => r.matches w = true).card = 65536)

/-- 30_encoding.md, words written out from the encoding table by hand (95_test_vectors.md has the same words). -/
def Obligations.HandWrittenWordsDecode : Prop :=
  decode 0x00000 = .ok (.nop 0x0000#16) ∧ decode 0x0FFFF = .ok (.nop 0xFFFF#16) ∧
  decode 0x10000 = .ok (.init 0x0000#16) ∧ decode 0x10041 = .ok (.init 0x0041#16) ∧
  decode 0x20061 = .ok (.feed 0x0061#16) ∧ decode 0x2D83D = .ok (.feed 0xD83D#16) ∧
  decode 0x3ABCD = .ok (.reserved 0xABCD#16)

/-- 30_encoding.md R36: NOP and INIT ignore `data`; every `data` value is legal; the assembler emits 0; `fold_out`
still shows Fold(data). -/
def Obligations.NopAndInitIgnoreData : Prop :=
  (∀ (d e : CodeUnit) (s : State), exec (.nop d) s = exec (.nop e) s ∧ exec (.init d) s = exec (.init e) s) ∧
  (∀ d : CodeUnit, (Instr.nop d).wellFormed = true ∧ (Instr.init d).wellFormed = true) ∧
  assembleLine .nop = .ok [0x00000#18] ∧ assembleLine .init = .ok [0x10000#18] ∧
  (∀ (d : CodeUnit) (s : State) (ps : List PortCycle),
    (s.inputs = PortCycle.present (.nop d) :: ps ∨ s.inputs = PortCycle.present (.init d) :: ps) →
      foldOut s = some (fold d))

/-- 30_encoding.md R40: a command is executed only in a cycle with `cmd_valid = 1` and `rst = 0`; in an idle cycle
the word is not decoded, whatever it is, and the cycle has the effect of a NOP but is not counted. -/
def Obligations.IdleCycleIsNotDecoded : Prop :=
  (∀ (s : State) (p : PortCycle) (ps : List PortCycle), s.refusalMark = none → s.inputs = p :: ps →
    p.rst = false → p.cmdValid = false → edge s = .next { s with inputs := ps }) ∧
  (∀ (s : State) (d : CodeUnit) (ps : List PortCycle), s.refusalMark = none →
    s.inputs = PortCycle.present (.nop d) :: ps →
    edge s = .next { s with inputs := ps, accepted := s.accepted + 1 }) ∧
  (∀ (s : State) (p : PortCycle) (n : Nat), p.accepts = false →
    edgeOn { p with hostWord := n } s = edgeOn p s) ∧
  (∀ (s : State) (p : PortCycle) (ps : List PortCycle), s.refusalMark = none → s.inputs = p :: ps → p.rst = true →
    edge s = .next { s with acc := .written 0x00001505#32, inputs := ps })

/-- 30_encoding.md R45: the listing's five digits read back as the word, the word is op * 0x10000 + data, the four
kinds of words are the four ranges, and a host word with a bit above 17 set is refused. -/
def Obligations.WordsAreNumberedByOpAndData : Prop :=
  (∀ w : CmdWord, (listing w).length = 7 ∧ (listing w).take 2 = ['0', 'x'] ∧
    readDigits 16 0 ((listing w).drop 2) = (w.toNat, [])) ∧
  (∀ i : Instr, (encode i).toNat = i.op.toNat * 0x10000 + i.data.toNat) ∧
  (∀ w : CmdWord,
    ((∃ d, decodeWord w = .nop d) ↔ w.toNat ≤ 0x0FFFF) ∧
    ((∃ d, decodeWord w = .init d) ↔ 0x10000 ≤ w.toNat ∧ w.toNat ≤ 0x1FFFF) ∧
    ((∃ c, decodeWord w = .feed c) ↔ 0x20000 ≤ w.toNat ∧ w.toNat ≤ 0x2FFFF) ∧
    ((∃ d, decodeWord w = .reserved d) ↔ 0x30000 ≤ w.toNat ∧ w.toNat ≤ 0x3FFFF)) ∧
  (∀ n b : Nat, 17 < b → n.testBit b = true →
    decode n = .error (.wideHostWord n) ∧
    ∀ (s : State) (ps : List PortCycle), s.refusalMark = none →
      s.inputs = { rst := false, cmdValid := true, hostWord := n } :: ps → ∃ r, edge s = .refused r ∧ step s = .refused r)

/-- 30_encoding.md section 3: the words of the three command forms, the refused operands, mnemonics in any case,
comments, and no source text that the assembler takes gives a reserved word. -/
def Obligations.AssemblerEmitsOnlyLegalWords : Prop :=
  (∀ n : Nat, n < 65536 → ∃ w : CmdWord, assembleLine (.feed n) = .ok [w] ∧ w.toNat = 0x20000 + n) ∧
  (∀ n : Nat, 65536 ≤ n → assembleLine (.feed n) = .error .operandRange) ∧
  (∀ name rest : List Char, (∀ c ∈ name, endsMnemonic c = false) → (∀ c ∈ rest.head?, endsMnemonic c = true) →
    parseLine (name.map Char.toUpper ++ rest) = parseLine (name ++ rest)) ∧
  (∀ cs : List Char, parseLine (';' :: cs) = .ok none) ∧
  parseLine ['F', 'E', 'E', 'D'] = .error .badOperand ∧
  (∀ (src : List Char) (ws : List CmdWord), assemble src = .ok ws → ∀ w ∈ ws, (decodeWord w).wellFormed = true)

/-- 30_encoding.md section 2 and 60_exceptions.md section 1, a host word with a bit above 17 set. That it is refused
says the spec; that the refusal names the index and the word, is not counted, sets the mark and leaves ACC without a
value, and that in an idle or a reset cycle the word is not looked at, is the model's choice (log entries 3 and 4). -/
def Obligations.WideHostWordIsRefusedForGood : Prop :=
  ∀ (s : State) (p : PortCycle) (ps : List PortCycle) (b : Nat), s.refusalMark = none → s.inputs = p :: ps →
    17 < b → p.hostWord.testBit b = true →
    (p.rst = true → edge s = .next { s with acc := .written 0x00001505#32, inputs := ps }) ∧
    (p.rst = false → p.cmdValid = false → edge s = .next { s with inputs := ps }) ∧
    (p.rst = false → p.cmdValid = true →
      edge s = .refused (.wideHostWord s.accepted p.hostWord) ∧
      step s = .refused (.wideHostWord s.accepted p.hostWord) ∧
      (afterEdge s).accepted = s.accepted ∧ (∀ v, hashOut (afterEdge s) ≠ .ok v) ∧
      ∀ n : Nat, (afterEdges (n + 1) s).refusalMark = some (.wideHostWord s.accepted p.hostWord))

/-- 30_encoding.md section 3: a line with NOP, INIT or FEED and an operand in any of its written forms is taken and
gives its word; an operand out of range, a character of two units, a missing and a surplus operand are refused. The
blanks and the other open details of the text are the model's choice (log entry 9). -/
def Obligations.AssemblerTakesEveryCommandForm : Prop :=
  ∀ lead name gap : List Char, IsGap lead → IsGap gap → gap ≠ [] →
    (IsMnemonic ['N', 'O', 'P'] name →
      (∀ tail, IsLineEnd tail → assembleTextLine (lead ++ name ++ tail) = .ok [0x00000#18]) ∧
      (∀ c cs, isBlank c = false → c ≠ ';' → assembleTextLine (lead ++ name ++ gap ++ c :: cs) = .error .trailingText)) ∧
    (IsMnemonic ['I', 'N', 'I', 'T'] name →
      (∀ tail, IsLineEnd tail → assembleTextLine (lead ++ name ++ tail) = .ok [0x10000#18]) ∧
      (∀ c cs, isBlank c = false → c ≠ ';' → assembleTextLine (lead ++ name ++ gap ++ c :: cs) = .error .trailingText)) ∧
    (IsMnemonic ['F', 'E', 'E', 'D'] name →
      (∀ operand tail n, WritesOperand operand n → IsLineEnd tail →
        (n < 65536 → ∃ w : CmdWord, w.toNat = 0x20000 + n ∧
          assembleTextLine (lead ++ name ++ gap ++ operand ++ tail) = .ok [w]) ∧
        (65536 ≤ n → assembleTextLine (lead ++ name ++ gap ++ operand ++ tail) = .error .operandRange)) ∧
      (∀ (c : Char) (cs : List Char), 0x10000 ≤ c.toNat →
        assembleTextLine (lead ++ name ++ gap ++ '\'' :: c :: '\'' :: cs) = .error .badOperand) ∧
      (∀ tail, IsLineEnd tail → assembleTextLine (lead ++ name ++ tail) = .error .badOperand))

/-- 30_encoding.md section 3: a line with FEEDS or HASH and a quoted text, with every escape, is taken and gives one
FEED for each code unit, after an INIT for HASH. The blanks are the model's choice (log entry 9), the code units of a
character above U+FFFF too (log entry 10). -/
def Obligations.AssemblerTakesQuotedTexts : Prop :=
  ∀ (lead name gap tail : List Char) (items : List TextItem) (pieces : List (List Char)),
    IsGap lead → IsGap gap → gap ≠ [] → IsLineEnd tail → List.Forall₂ WritesItem items pieces →
    (IsMnemonic ['F', 'E', 'E', 'D', 'S'] name →
      assembleTextLine (lead ++ name ++ gap ++ '"' :: (pieces.flatten ++ '"' :: tail)) =
        .ok ((textUnits items).map fun u => encode (.feed u))) ∧
    (IsMnemonic ['H', 'A', 'S', 'H'] name →
      assembleTextLine (lead ++ name ++ gap ++ '"' :: (pieces.flatten ++ '"' :: tail)) =
        .ok (0x10000#18 :: (textUnits items).map fun u => encode (.feed u)))

/-- 30_encoding.md section 3 ("one command per line"): a source text is read line by line, the words in order, and
the first refused line refuses it; a blank or a comment line gives no word (log entry 9). -/
def Obligations.AssemblerReadsLineByLine : Prop :=
  (∀ line : List Char, IsLineEnd line → assembleTextLine line = .ok []) ∧
  ∀ line : List Char, '\n' ∉ line →
    assemble line = assembleTextLine line ∧
    ∀ src : List Char,
      (∀ ws more, assembleTextLine line = .ok ws → assemble src = .ok more →
        assemble (line ++ '\n' :: src) = .ok (ws ++ more)) ∧
      (∀ e, assembleTextLine line = .error e → assemble (line ++ '\n' :: src) = .error e) ∧
      (∀ ws e, assembleTextLine line = .ok ws → assemble src = .error e →
        assemble (line ++ '\n' :: src) = .error e)

/-- 30_encoding.md section 3 (FEEDS and HASH): FEEDS is one FEED for each code unit in order, HASH is INIT and then
that; after HASH `hash_out` is the text's hash. The code units of a character are the model's `utf16Units`
(log entry 10). -/
def Obligations.HashPseudoInstructionHashesItsText : Prop :=
  (∀ text : List TextItem, ∃ ws : List CmdWord, assembleLine (.feeds text) = .ok ws ∧
    ws.map decodeWord = (textUnits text).map Instr.feed ∧
    assembleLine (.hash text) = .ok (0x10000#18 :: ws)) ∧
  assembleLine (.feeds []) = .ok [] ∧ assembleLine (.hash []) = .ok [0x10000#18] ∧
  (∀ (text : List TextItem) (ws : List CmdWord) (s : State) (ps : List PortCycle),
    assembleLine (.hash text) = .ok ws → s.refusalMark = none →
    s.inputs = ws.map (fun w => PortCycle.present (decodeWord w)) ++ ps →
    ∃ t, runSteps ws.length s = .next t ∧ hashOut t = .ok (stringHash (textUnits text)) ∧
      t.accepted = s.accepted + ws.length ∧ t.refusalMark = none ∧ t.inputs = ps)

/-! ## NOP and INIT (40_control.md) -/

/-- 40_control.md R46: NOP is the words with `op = 0b00`; it changes nothing, for every `data` and every state, an
unwritten ACC included; at an edge it counts as accepted, while an idle cycle has the same effect on ACC and does not count; `fold_out` shows Fold(data). -/
def Obligations.NopChangesNothing : Prop :=
  (∀ d : CodeUnit, (encode (.nop d)).toNat = d.toNat ∧ decode d.toNat = .ok (.nop d)) ∧
  (∀ (d : CodeUnit) (s : State), exec (.nop d) s = .next s) ∧
  (∀ (d : CodeUnit) (s : State) (ps : List PortCycle), s.refusalMark = none →
    s.inputs = PortCycle.present (.nop d) :: ps →
    foldOut s = some (fold d) ∧ edge s = .next { s with inputs := ps, accepted := s.accepted + 1 }) ∧
  (∀ (s : State) (p : PortCycle) (ps : List PortCycle), s.refusalMark = none → s.inputs = p :: ps →
    p.rst = false → p.cmdValid = false → edge s = .next { s with inputs := ps })

/-- 40_control.md R47: INIT is the words with `op = 0b01`; it writes 5381 whatever ACC was, an unwritten one included;
two are as one; and it has the effect of `rst` on ACC but is a command. -/
def Obligations.InitLoadsTheSeed : Prop :=
  (∀ d : CodeUnit, (encode (.init d)).toNat = 0x10000 + d.toNat ∧ decode (0x10000 + d.toNat) = .ok (.init d)) ∧
  (∀ (d : CodeUnit) (s : State), exec (.init d) s = .next { s with acc := .written 0x00001505#32 }) ∧
  (∀ (d e : CodeUnit) (s t : State), exec (.init d) s = .next t → exec (.init e) t = .next t) ∧
  (∀ (d : CodeUnit) (s : State) (p : PortCycle) (ps : List PortCycle), s.refusalMark = none → p.rst = true →
    edge { s with inputs := p :: ps } = .next { s with acc := .written 0x00001505#32, inputs := ps } ∧
    edge { s with inputs := PortCycle.present (.init d) :: ps } =
      .next { s with acc := .written 0x00001505#32, inputs := ps, accepted := s.accepted + 1 })

/-- 40_control.md section text ("An INIT followed by no FEED leaves hash_out = 5381", the spec's own inference). -/
def Obligations.InitWithoutFeedShowsTheSeed : Prop :=
  ∀ (s : State) (d : CodeUnit) (qs ps : List PortCycle), s.refusalMark = none →
    s.inputs = PortCycle.present (.init d) :: (qs ++ ps) → (∀ q ∈ qs, q.isQuiet = true) →
    ∃ t, runEdges (qs.length + 1) s = .next t ∧ hashOut t = .ok 5381#32 ∧ t.refusalMark = none ∧ t.inputs = ps

/-- 40_control.md ("After an INIT, the value on hash_out depends only on the code units fed after that INIT", the
spec's own inference; "The same holds after rst"): two states that agree in nothing but the code units fed since
a start, each after any cycles of its own in between, end with the same value. -/
def Obligations.ResultDependsOnlyOnUnitsFedSinceStart : Prop :=
  ∀ (s₁ s₂ : State) (p₁ p₂ : PortCycle) (qs₁ qs₂ rest₁ rest₂ : List PortCycle),
    s₁.refusalMark = none → s₂.refusalMark = none →
    s₁.inputs = p₁ :: (qs₁ ++ rest₁) → s₂.inputs = p₂ :: (qs₂ ++ rest₂) →
    p₁.startsString = true → p₂.startsString = true →
    (∀ q ∈ qs₁, q.continuesString = true) → (∀ q ∈ qs₂, q.continuesString = true) →
    fedUnits qs₁ = fedUnits qs₂ →
    ∃ t₁ t₂ v, runEdges (qs₁.length + 1) s₁ = .next t₁ ∧ runEdges (qs₂.length + 1) s₂ = .next t₂ ∧
      hashOut t₁ = .ok v ∧ hashOut t₂ = .ok v

/-! ## The fold stage (41_fold_stage.md) -/

/-- 41_fold_stage.md R51: the three steps on integers, in order, each with its range, returned on 16 bits. -/
def Obligations.FoldComputesItsThreeSteps : Prop :=
  ∀ (c : CodeUnit) (a b r : Int), a = (c.toNat : Int) - 65 → b = (if a < 0 then a + 256 else a) →
    r = (if b ≤ 25 then b + 32 else b) →
    -65 ≤ a ∧ a ≤ 65470 ∧ (a < 0 → 191 ≤ b ∧ b ≤ 255) ∧ (b ≤ 25 → 32 ≤ r ∧ r ≤ 57) ∧ 26 ≤ r ∧ r ≤ 65470 ∧
    ((fold c).toNat : Int) = r

/-- 41_fold_stage.md section text (the closed form and the range 26..65470, the spec's own inferences). -/
def Obligations.FoldHasItsClosedForm : Prop :=
  ∀ c : CodeUnit,
    (c.toNat ≤ 64 → (fold c).toNat = c.toNat + 191) ∧
    (65 ≤ c.toNat → c.toNat ≤ 90 → (fold c).toNat + 33 = c.toNat) ∧
    (91 ≤ c.toNat → (fold c).toNat + 65 = c.toNat) ∧
    26 ≤ (fold c).toNat ∧ (fold c).toNat ≤ 65470

/-- 41_fold_stage.md ("The two families ... are the only collisions of Fold", the spec's own inference): letters of
one case pair, and the low units with their aliases 256 higher, collide, and nothing else does. -/
def Obligations.FoldCollidesOnlyOnCasePairsAndAliases : Prop :=
  ∀ c d : CodeUnit, c.toNat < d.toNat →
    (fold c = fold d ↔
      (65 ≤ c.toNat ∧ c.toNat ≤ 90 ∧ d.toNat = c.toNat + 32) ∨ (c.toNat ≤ 64 ∧ d.toNat = c.toNat + 256))

/-- 41_fold_stage.md ("Exactly 91 output values have two preimages", the spec's own inference): the counts of values
with two, one and no preimages. -/
def Obligations.FoldPreimageCounts : Prop :=
  ∀ pre : FoldedOffset → Nat, (∀ v, pre v = (Finset.univ.filter fun c : CodeUnit => fold c = v).card) →
    (Finset.univ.filter fun v => pre v = 2).card = 91 ∧ (Finset.univ.filter fun v => pre v = 1).card = 65354 ∧
    (Finset.univ.filter fun v => pre v = 0).card = 91 ∧ (∀ v, pre v ≤ 2)

/-- 41_fold_stage.md ("Fold does not reduce its result by any other modulus", the spec's own inference): a modulus of
256 or of 65536 in place of steps (a) and (b) gives another result, exactly from 321 on and up to 64. -/
def Obligations.FoldIsNotAModulus : Prop :=
  ∀ c : CodeUnit,
    (((fold c).toNat : Int) ≠ foldWindow (((c.toNat : Int) - 65) % 256) ↔ 321 ≤ c.toNat) ∧
    (((fold c).toNat : Int) ≠ foldWindow (((c.toNat : Int) - 65) % 65536) ↔ c.toNat ≤ 64)

/-! ## FEED and the hash (42_feed.md) -/

/-- 42_feed.md R60: the shift, the addition of the unshifted value, and the XOR, each modulo 2^32. -/
def Obligations.MixShiftsAddsAndXors : Prop :=
  ∀ (h : Word) (f : FoldedOffset) (s m : Nat), s = (h.toNat * 2 ^ 5) % 2 ^ 32 → m = (s + h.toNat) % 2 ^ 32 →
    m = (h.toNat * 33) % 2 ^ 32 ∧ (mix h f).toNat = m ^^^ f.toNat

/-- 42_feed.md ("Mix(h, f) = ((33 * h) mod 2^32) XOR f", the spec's own inference): the integer product reduced once,
and the XOR never reaches bits 31:16. -/
def Obligations.MixMultipliesBy33 : Prop :=
  ∀ (h : Word) (f : FoldedOffset),
    (mix h f).toNat = (constants.mult * h.toNat) % 2 ^ 32 ^^^ f.toNat ∧
    (mix h f).toNat / 2 ^ 16 = (33 * h.toNat) % 2 ^ 32 / 2 ^ 16 ∧
    (mix h f).toNat % 2 ^ 16 = (33 * h.toNat) % 2 ^ 16 ^^^ f.toNat

/-- 42_feed.md R62: FEED's new ACC from the three sub-steps, the fault while ACC is unwritten, the corner cases, and
the words with `op = 0b10`. -/
def Obligations.FeedFoldsAndAccumulates : Prop :=
  (∀ (c : CodeUnit) (h : Word) (s : State), s.acc = .written h →
    exec (.feed c) s = .next { s with acc := .written (((h <<< 5) + h) ^^^ (fold c).setWidth 32) }) ∧
  (∀ (c : CodeUnit) (s : State), s.acc = .unwritten → exec (.feed c) s = .fault .readOfUnwrittenAcc) ∧
  (∀ (h : Word) (c : CodeUnit), absorb h c = mix h (fold c) ∧ mix h (fold c) = ((h <<< 5) + h) ^^^ (fold c).setWidth 32 ∧
    (mix h (fold c)).extractLsb' 16 16 = ((h <<< 5) + h).extractLsb' 16 16) ∧
  (∀ c : CodeUnit, 26 ≤ (fold c).toNat ∧ (fold c).toNat ≤ 65470 ∧ absorb 0#32 c = (fold c).setWidth 32) ∧
  (∀ (s : State), exec (.feed 0x0041#16) s = exec (.feed 0x0061#16) s ∧ exec (.feed 0x0000#16) s = exec (.feed 0x0100#16) s) ∧
  mixShift 0xFFFFFFFF#32 = 0xFFFFFFE0#32 ∧ mixAdd 0xFFFFFFFF#32 = 0xFFFFFFDF#32 ∧
  absorb 0xFFFFFFFF#32 0x0041#16 = 0xFFFFFFFF#32 ∧ absorb 0xFFFFFFFF#32 0xFFFF#16 = 0xFFFF0061#32 ∧
  mixShift 0x80000000#32 = 0#32 ∧ mixAdd 0x80000000#32 = 0x80000000#32 ∧ fold 0xFFFF#16 = 0xFFBE#16 ∧
  absorb 0x00001505#32 0x0041#16 = 0x0002B585#32 ∧
  (∀ c : CodeUnit, (encode (.feed c)).toNat = 0x20000 + c.toNat ∧ decode (0x20000 + c.toNat) = .ok (.feed c))

/-- 42_feed.md R63: H of the empty sequence is 5381, and one more unit is one more Mix. -/
def Obligations.HashIsBuiltUnitByUnit : Prop :=
  stringHash [] = 5381#32 ∧
  ∀ (us : List CodeUnit) (u : CodeUnit), stringHash (us ++ [u]) = mix (stringHash us) (fold u)

/-- 42_feed.md ("From any state, the command sequence INIT, FEED u_1, ..., FEED u_n leaves hash_out = H(u_1 .. u_n)",
the spec's own inference): with NOPs and idle cycles anywhere, and with `rst` in place of INIT; seen at the edges,
and, where the start is an INIT, at the steps (one for each accepted command). -/
def Obligations.FeedingAStringLeavesItsHash : Prop :=
  ∀ (s : State) (p : PortCycle) (qs ps : List PortCycle), s.refusalMark = none → s.inputs = p :: (qs ++ ps) →
    p.startsString = true → (∀ q ∈ qs, q.continuesString = true) →
    (∃ t, runEdges (qs.length + 1) s = .next t ∧ hashOut t = .ok (stringHash (fedUnits qs)) ∧
      t.refusalMark = none ∧ t.inputs = ps) ∧
    (p.rst = false → ∃ t, runSteps (qs.countP PortCycle.accepts + 1) s = .next t ∧
      hashOut t = .ok (stringHash (fedUnits qs)) ∧
      t.accepted = s.accepted + qs.countP PortCycle.accepts + 1)

/-- 42_feed.md ("then ACC = H(p ++ q)", the spec's own inference): feeding goes on from the hash that ACC holds. -/
def Obligations.FeedingGoesOnFromTheHashOfTheFirstPart : Prop :=
  ∀ (s : State) (us : List CodeUnit) (qs ps : List PortCycle), s.refusalMark = none →
    s.acc = .written (stringHash us) → s.inputs = qs ++ ps → (∀ q ∈ qs, q.continuesString = true) →
    ∃ t, runEdges qs.length s = .next t ∧ t.acc = .written (stringHash (us ++ fedUnits qs)) ∧
      t.refusalMark = none ∧ t.inputs = ps

/-- 42_feed.md ("H depends on its input only through the sequence of folded offsets", the spec's own inference):
equal folds give equal hashes, so case variants and low/high aliases in any positions do. -/
def Obligations.HashIgnoresCaseAndAliases : Prop :=
  (∀ us vs : List CodeUnit, us.map fold = vs.map fold → stringHash us = stringHash vs) ∧
  (∀ us vs : List CodeUnit,
    List.Forall₂ (fun c d : CodeUnit => c = d ∨
      (65 ≤ c.toNat ∧ c.toNat ≤ 90 ∧ d.toNat = c.toNat + 32) ∨ (65 ≤ d.toNat ∧ d.toNat ≤ 90 ∧ c.toNat = d.toNat + 32) ∨
      (c.toNat ≤ 64 ∧ d.toNat = c.toNat + 256) ∨ (d.toNat ≤ 64 ∧ c.toNat = d.toNat + 256)) us vs →
    stringHash us = stringHash vs)

/-- 42_feed.md ("h -> Mix(h, f) is a bijection on 32-bit values", the spec's own inference): the inverse of Mix in
its first argument, and injectivity in its second. -/
def Obligations.MixIsInvertible : Prop :=
  (∀ (h r : Word) (f : FoldedOffset), mix h f = r ↔ h = 0x3E0F83E1#32 * (r ^^^ f.setWidth 32)) ∧
  (∀ (h : Word) (f g : FoldedOffset), mix h f = mix h g → f = g)

/-- 42_feed.md ("two sequences of the same length whose folded-offset sequences differ in exactly one position
always have different H", the spec's own inference): and a change of one unit that keeps its fold changes nothing. -/
def Obligations.EverySingleUnitChangeIsDetected : Prop :=
  ∀ (us vs us' vs' : List CodeUnit) (c d : CodeUnit), us.map fold = us'.map fold → vs.map fold = vs'.map fold →
    (stringHash (us ++ c :: vs) = stringHash (us' ++ d :: vs') ↔ fold c = fold d)

/-! ## Refusal, priority and instances (60_exceptions.md) -/

/-- 60_exceptions.md section 1, a reserved command: it is refused with its index and its word, the mark is set, and no
later edge clears it. What state stands after a refusal (`afterEdge`, `afterEdges`), its ACC without a value, and that
every edge and step from a marked state refuses again with the same refusal, are the model's choice (log entry 4). -/
def Obligations.ReservedCommandIsRefusedForGood : Prop :=
  (∀ (d : CodeUnit) (s : State), ∃ w : CmdWord, w.toNat = 0x30000 + d.toNat ∧
    exec (.reserved d) s = .refused (.reservedCommand s.accepted w)) ∧
  (∀ (d : CodeUnit) (s : State) (p : PortCycle) (ps : List PortCycle), s.refusalMark = none → s.inputs = p :: ps →
    p.rst = false → p.cmdValid = true → p.hostWord = 0x30000 + d.toNat →
    ∃ w : CmdWord, w.toNat = p.hostWord ∧ edge s = .refused (.reservedCommand s.accepted w) ∧
      step s = .refused (.reservedCommand s.accepted w) ∧ (∀ v, hashOut (afterEdge s) ≠ .ok v) ∧
      ∀ n : Nat, (afterEdges (n + 1) s).refusalMark = some (.reservedCommand s.accepted w)) ∧
  (∀ (s : State) (r : Refusal), s.refusalMark = some r →
    edge s = .refused r ∧ step s = .refused r ∧
    ∀ (n : Nat) (ps : List PortCycle), (afterEdges n { s with inputs := ps }).refusalMark = some r)

/-- 60_exceptions.md R72: `rst` wins over a command of any kind in the same cycle, a reserved one included; the command
is neither executed nor counted nor refused. (A wide host word is no command: `WideHostWordIsRefusedForGood`.) -/
def Obligations.ResetWinsOverACommand : Prop :=
  ∀ (s : State) (p : PortCycle) (ps : List PortCycle), s.refusalMark = none → s.inputs = p :: ps →
    p.rst = true → p.cmdValid = true → p.hostWord < 2 ^ 18 →
    edge s = .next { s with acc := .written 0x00001505#32, inputs := ps }

/-- 60_exceptions.md section 6 (instances share no state): under any schedule of edges, each instance is where its own
edges alone bring it, and one that is fed a string shows that string's hash, whatever the others are fed. The list of
states and the schedule are the model's choice (log entry 12), and so is what `afterEdges` holds past a fault or a
refusal (log entries 6 and 4). -/
def Obligations.InstancesDoNotInteract : Prop :=
  ∀ (schedule : List Nat) (sys : List State) (j : Nat) (s : State), sys[j]? = some s →
    (runSchedule schedule sys).length = sys.length ∧
    (runSchedule schedule sys)[j]? = some (afterEdges (schedule.count j) s) ∧
    (∀ (p : PortCycle) (qs ps : List PortCycle), s.refusalMark = none → s.inputs = p :: (qs ++ ps) →
      p.startsString = true → (∀ q ∈ qs, q.continuesString = true) → schedule.count j = qs.length + 1 →
      ∃ t, (runSchedule schedule sys)[j]? = some t ∧ hashOut t = .ok (stringHash (fedUnits qs)))

/-! ## Reset, cycles and steps (70_reset_and_hazards.md) -/

/-- 70_reset_and_hazards.md R79: an edge with `rst = 1` writes 5381 and discards the command; `hash_out` then shows
the hash of the empty sequence; a refusal mark stays. -/
def Obligations.ResetEdgeLoadsTheSeed : Prop :=
  (∀ (s : State) (p : PortCycle) (ps : List PortCycle), s.refusalMark = none → s.inputs = p :: ps → p.rst = true →
    ∃ t, edge s = .next t ∧ t = { s with acc := .written 0x00001505#32, inputs := ps } ∧
      hashOut t = .ok 5381#32 ∧ hashOut t = .ok (stringHash [])) ∧
  (∀ (s : State) (p : PortCycle) (ps : List PortCycle) (r : Refusal), s.refusalMark = some r → s.inputs = p :: ps →
    p.rst = true → (afterEdge s).refusalMark = some r)

/-- The model's reset state (70_reset_and_hazards.md section 1): it is what one `rst` edge makes of the power-up
state, it shows 5381, and it is running. That nothing is scheduled on the ports is the model's choice
(log entry 2). -/
def Obligations.ResetStateIsThePowerUpStateAfterRst : Prop :=
  edge { State.powerUp with inputs := [PortCycle.reset] } = .next State.reset ∧
  hashOut State.reset = .ok 5381#32 ∧ State.reset.accepted = 0 ∧ State.reset.inputs = [] ∧
  State.reset.isRunning = true ∧ State.reset.isSafe = true

/-- 70_reset_and_hazards.md R80: at power-up ACC has no value; while it has none, an observation of `hash_out` and an
accepted FEED fault, a NOP and an idle cycle leave it unwritten, an INIT and `rst` write it. -/
def Obligations.UnwrittenAccFaultsWhenRead : Prop :=
  State.powerUp.acc = .unwritten ∧
  (∀ s : State, s.acc = .unwritten → s.refusalMark = none →
    hashOut s = .error .readOfUnwrittenAcc ∧
    (∀ (c : CodeUnit) (ps : List PortCycle),
      edge { s with inputs := PortCycle.present (.feed c) :: ps } = .fault .readOfUnwrittenAcc) ∧
    (∀ (p : PortCycle) (ps : List PortCycle), p.isQuiet = true →
      ∃ t, edge { s with inputs := p :: ps } = .next t ∧ t.acc = .unwritten) ∧
    (∀ (p : PortCycle) (ps : List PortCycle), p.startsString = true →
      ∃ t, edge { s with inputs := p :: ps } = .next t ∧ t.acc = .written 0x00001505#32))

/-- 70_reset_and_hazards.md R82: one or more cycles of `rst` leave what one leaves. -/
def Obligations.HeldResetIsOneReset : Prop :=
  ∀ (s : State) (p : PortCycle) (rs ps : List PortCycle), s.refusalMark = none → s.inputs = p :: (rs ++ ps) →
    p.rst = true → (∀ r ∈ rs, r.rst = true) →
    runEdges (rs.length + 1) s = .next { s with acc := .written 0x00001505#32, inputs := ps } ∧
    edge { s with inputs := p :: ps } = .next { s with acc := .written 0x00001505#32, inputs := ps }

/-- 70_reset_and_hazards.md R85: the whole next-state function, for every state that the model has not refused and
every 18-bit word on the port, read as op * 0x10000 + data; with the two outputs. -/
def Obligations.NextStateFunction : Prop :=
  ∀ (s : State) (rst valid : Bool) (op : OpField) (data : CodeUnit) (ps : List PortCycle), s.refusalMark = none →
    s.inputs = { rst := rst, cmdValid := valid, hostWord := op.toNat * 0x10000 + data.toNat } :: ps →
    foldOut s = some (fold data) ∧ (∀ v, s.acc = .written v → hashOut s = .ok v) ∧
    (rst = true → edge s = .next { s with acc := .written 0x00001505#32, inputs := ps }) ∧
    (rst = false → valid = false → edge s = .next { s with inputs := ps }) ∧
    (rst = false → valid = true → op = 0b00#2 →
      edge s = .next { s with inputs := ps, accepted := s.accepted + 1 }) ∧
    (rst = false → valid = true → op = 0b01#2 →
      edge s = .next { s with acc := .written 0x00001505#32, inputs := ps, accepted := s.accepted + 1 }) ∧
    (∀ h, rst = false → valid = true → op = 0b10#2 → s.acc = .written h →
      edge s = .next { s with acc := .written (mix h (fold data)), inputs := ps, accepted := s.accepted + 1 }) ∧
    (rst = false → valid = true → op = 0b10#2 → s.acc = .unwritten → edge s = .fault .readOfUnwrittenAcc) ∧
    (rst = false → valid = true → op = 0b11#2 → ∃ w, edge s = .refused (.reservedCommand s.accepted w))

/-- 70_reset_and_hazards.md R86: while the last FEED of a string is presented, `hash_out` shows the hash without its
unit and `fold_out` already shows the unit's fold; after the edge `hash_out` shows the hash with it. -/
def Obligations.HashOutFollowsAfterTheEdge : Prop :=
  ∀ (s : State) (us : List CodeUnit) (u : CodeUnit) (ps : List PortCycle), s.refusalMark = none →
    s.acc = .written (stringHash us) → s.inputs = PortCycle.present (.feed u) :: ps →
    hashOut s = .ok (stringHash us) ∧ foldOut s = some (fold u) ∧
    ∃ t, edge s = .next t ∧ hashOut t = .ok (stringHash (us ++ [u])) ∧ t.accepted = s.accepted + 1 ∧ t.inputs = ps

/-- 70_reset_and_hazards.md R87: commands presented back to back, in any order, are all accepted, one at each edge and
one at each step, and none waits. ACC is written at the start, or an INIT stands before every FEED, so that also a run
from power-up is covered; a FEED without either faults (R80, `UnwrittenAccFaultsWhenRead`). -/
def Obligations.BackToBackCommandsAreAllAccepted : Prop :=
  ∀ (s : State) (is : List Instr) (ps : List PortCycle), s.refusalMark = none → (∀ i ∈ is, ∀ d, i ≠ .reserved d) →
    (s.acc.isWritten = true ∨ ∀ pre c post, is = pre ++ .feed c :: post → ∃ d, .init d ∈ pre) →
    s.inputs = is.map PortCycle.present ++ ps →
    ∀ n : Nat, n ≤ is.length →
      ∃ t, runEdges n s = .next t ∧ runSteps n s = .next t ∧ t.accepted = s.accepted + n ∧
        t.inputs = (is.drop n).map PortCycle.present ++ ps ∧ t.refusalMark = none ∧
        (t.acc.isWritten = true ↔ s.acc.isWritten = true ∨ ∃ d, .init d ∈ is.take n)

/-- 70_reset_and_hazards.md section 5 (a step is one accepted command): when the ports present a word that decodes
to `i` in an accepting cycle, a step is `exec i` on the state with the cycle used up, and the command counted. -/
def Obligations.StepRunsTheDecodedCommand : Prop :=
  ∀ (s : State) (p : PortCycle) (ps : List PortCycle) (i : Instr), s.refusalMark = none → s.inputs = p :: ps →
    p.rst = false → p.cmdValid = true → decode p.hostWord = .ok i →
    (∀ t, exec i { s with inputs := ps } = .next t → step s = .next { t with accepted := t.accepted + 1 }) ∧
    (∀ f, exec i { s with inputs := ps } = .fault f → step s = .fault f) ∧
    (∀ r, exec i { s with inputs := ps } = .refused r → step s = .refused r)

/-- 70_reset_and_hazards.md section 5 with section 3 (the untimed step against the clock): a step is the edges of the
idle and reset cycles before the next accepting one, which accept nothing and change ACC only by a reset, and then the
accepting edge; with no accepting cycle left it is the edges of all the cycles. How the resets before a command are
taken, and the step with no accepting cycle left, are the model's choice (log entry 1). -/
def Obligations.StepIsTheEdgesUpToTheNextCommand : Prop :=
  ∀ (s : State) (pre ps : List PortCycle), s.refusalMark = none → (∀ q ∈ pre, q.accepts = false) →
    ∀ m : State,
      m = { s with acc := if pre.any PortCycle.rst then .written 0x00001505#32 else s.acc, inputs := ps } →
      (s.inputs = pre ++ ps → runEdges pre.length s = .next m) ∧
      (∀ p rest, ps = p :: rest → p.accepts = true → s.inputs = pre ++ ps →
        step s = edge m ∧ step s = runEdges (pre.length + 1) s) ∧
      (ps = [] → s.inputs = pre → step s = .next m)

/-- 70_reset_and_hazards.md section 5 and 10_state.md section 2: a step that goes on accepts exactly one command;
accepted and still scheduled commands are together as many as before. That a step with no command left takes all the
cycles, answers a next state and accepts none is the model's choice (log entry 1). -/
def Obligations.StepAcceptsExactlyOneCommand : Prop :=
  ∀ s t : State, step s = .next t →
    t.accepted = s.accepted + (if s.inputs.any PortCycle.accepts then 1 else 0) ∧
    t.accepted + t.inputs.countP PortCycle.accepts = s.accepted + s.inputs.countP PortCycle.accepts ∧
    (∃ used, s.inputs = used ++ t.inputs)

/-- 10_state.md section 1 (only power-up leaves ACC unwritten): every step keeps the model running, from every state
in which it runs, whatever the ports hold. -/
def Obligations.StepKeepsTheModelRunning : Prop :=
  ∀ s t : State, s.isRunning = true → step s = .next t → t.isRunning = true

/-- 70_reset_and_hazards.md section 2 and 30_encoding.md section 2 (the host's duties): while the host keeps its
duties no step and no edge faults or refuses, and the duties left are kept. -/
def Obligations.HostThatKeepsItsDutiesIsNeverStopped : Prop :=
  ∀ s : State, s.isSafe = true →
    (∃ t, edge s = .next t ∧ t.isSafe = true) ∧ (∃ t, step s = .next t ∧ t.isSafe = true) ∧
    ∀ n : Nat, ∃ t, runSteps n s = .next t ∧ t.isSafe = true
end

