-- ==== Sys2Proof/Laws/Decode.lean ====
section
/-! SUPPORT. The two fields of an encoded command, and what `decode` can answer. -/

namespace Sys2Proof

@[simp] theorem opField_encode (i : Instr) : opField (encode i) = i.op := by
  ext j hj
  rw [opField, encode, BitVec.getElem_extractLsb', BitVec.getLsbD_cast, BitVec.getLsbD_append]
  simp [BitVec.getLsbD_eq_getElem hj]

@[simp] theorem dataField_encode (i : Instr) : dataField (encode i) = i.data := by
  ext j hj
  rw [dataField, encode, BitVec.getElem_extractLsb', BitVec.getLsbD_cast, BitVec.getLsbD_append]
  simp [hj]

/-- A word is made of its two fields and nothing else. -/
theorem fields_append (w : CmdWord) : (opField w ++ dataField w).cast (by decide) = w := by
  ext j hj
  simp only [opField, dataField, BitVec.getElem_cast, BitVec.getElem_append, BitVec.getElem_extractLsb']
  split
  · simp [BitVec.getLsbD_eq_getElem hj]
  · rw [show 16 + (j - 16) = j by omega, BitVec.getLsbD_eq_getElem hj]

/-- All that `decode` can answer. -/
theorem decode_cases (n : Nat) :
    (n < 2 ^ 18 ∧ decode n = .ok (decodeWord (BitVec.ofNat 18 n))) ∨
      (2 ^ 18 ≤ n ∧ decode n = .error (.wideHostWord n)) := by
  by_cases h : n < 2 ^ 18
  · exact .inl ⟨h, if_pos (decide_eq_true h)⟩
  · exact .inr ⟨not_lt.mp h, if_neg fun hf => h (of_decide_eq_true hf)⟩

end Sys2Proof
end

