-- ==== Sys2Proof/Laws/State.lean ====
section
/-! SUPPORT. One lemma for each field of State and each update, so that no proof unfolds a record update. -/

namespace Sys2Proof.Machine

@[simp] theorem writeAcc_acc (v : Word) (s : State) : (writeAcc v s).acc = .written v := rfl
@[simp] theorem writeAcc_refusalMark (v : Word) (s : State) : (writeAcc v s).refusalMark = s.refusalMark := rfl
@[simp] theorem writeAcc_accepted (v : Word) (s : State) : (writeAcc v s).accepted = s.accepted := rfl
@[simp] theorem writeAcc_inputs (v : Word) (s : State) : (writeAcc v s).inputs = s.inputs := rfl

@[simp] theorem loadSeed_acc (s : State) : (loadSeed s).acc = .written seedWord := rfl
@[simp] theorem loadSeed_refusalMark (s : State) : (loadSeed s).refusalMark = s.refusalMark := rfl
@[simp] theorem loadSeed_accepted (s : State) : (loadSeed s).accepted = s.accepted := rfl
@[simp] theorem loadSeed_inputs (s : State) : (loadSeed s).inputs = s.inputs := rfl

@[simp] theorem countAccepted_acc (s : State) : (countAccepted s).acc = s.acc := rfl
@[simp] theorem countAccepted_refusalMark (s : State) : (countAccepted s).refusalMark = s.refusalMark := rfl
@[simp] theorem countAccepted_accepted (s : State) : (countAccepted s).accepted = s.accepted + 1 := rfl
@[simp] theorem countAccepted_inputs (s : State) : (countAccepted s).inputs = s.inputs := rfl

@[simp] theorem setInputs_acc (ps : List PortCycle) (s : State) : (setInputs ps s).acc = s.acc := rfl
@[simp] theorem setInputs_refusalMark (ps : List PortCycle) (s : State) :
    (setInputs ps s).refusalMark = s.refusalMark := rfl
@[simp] theorem setInputs_accepted (ps : List PortCycle) (s : State) : (setInputs ps s).accepted = s.accepted := rfl
@[simp] theorem setInputs_inputs (ps : List PortCycle) (s : State) : (setInputs ps s).inputs = ps := rfl
@[simp] theorem setInputs_self (s : State) : setInputs s.inputs s = s := rfl
@[simp] theorem setInputs_setInputs (ps qs : List PortCycle) (s : State) :
    setInputs ps (setInputs qs s) = setInputs ps s := rfl

@[simp] theorem markRefused_acc (r : Refusal) (s : State) : (markRefused r s).acc = .unwritten := rfl
@[simp] theorem markRefused_refusalMark (r : Refusal) (s : State) : (markRefused r s).refusalMark = some r := rfl
@[simp] theorem markRefused_accepted (r : Refusal) (s : State) :
    (markRefused r s).accepted = acceptedAfterRefusal r s.accepted := rfl
@[simp] theorem markRefused_inputs (r : Refusal) (s : State) : (markRefused r s).inputs = s.inputs := rfl

@[simp] theorem presentWord_acc (n : Nat) (s : State) : (presentWord n s).acc = s.acc := rfl
@[simp] theorem presentWord_refusalMark (n : Nat) (s : State) : (presentWord n s).refusalMark = s.refusalMark := rfl
@[simp] theorem presentWord_accepted (n : Nat) (s : State) : (presentWord n s).accepted = s.accepted := rfl
@[simp] theorem presentWord_inputs (n : Nat) (s : State) :
    (presentWord n s).inputs = { rst := false, cmdValid := true, hostWord := n } :: s.inputs := rfl

@[simp] theorem reset_acc : State.reset.acc = .written seedWord := rfl
@[simp] theorem reset_refusalMark : State.reset.refusalMark = none := rfl
@[simp] theorem reset_accepted : State.reset.accepted = 0 := rfl
@[simp] theorem reset_inputs : State.reset.inputs = [] := rfl

@[simp] theorem powerUp_acc : State.powerUp.acc = .unwritten := rfl
@[simp] theorem powerUp_refusalMark : State.powerUp.refusalMark = none := rfl
@[simp] theorem powerUp_accepted : State.powerUp.accepted = 0 := rfl
@[simp] theorem powerUp_inputs : State.powerUp.inputs = [] := rfl

end Sys2Proof.Machine
end

