-- ==== Sys2Proof/Laws/Ops.lean ====
section
/-! SUPPORT. What each shared operation and each meaning can answer, said once. -/

namespace Sys2Proof.Machine

/-- All that a read of ACC can answer. -/
theorem readAcc_cases (s : State) :
    (s.acc = .unwritten ∧ readAcc s = .error .readOfUnwrittenAcc) ∨ (∃ h, s.acc = .written h ∧ readAcc s = .ok h) := by
  cases hs : s.acc with
  | unwritten => exact .inl ⟨rfl, by simp [readAcc, hs]⟩
  | written h => exact .inr ⟨h, rfl, by simp [readAcc, hs]⟩

theorem readAcc_eq_ok {s : State} {h : Word} : readAcc s = .ok h ↔ s.acc = .written h := by
  cases hs : s.acc <;> simp [readAcc, hs]

@[simp] theorem andThen_next (s : State) (f : State → Host.Outcome State Fault Refusal) :
    andThen (.next s) f = f s := rfl
@[simp] theorem andThen_fault (r : Fault) (f : State → Host.Outcome State Fault Refusal) :
    andThen (.fault r) f = .fault r := rfl
@[simp] theorem andThen_refused (r : Refusal) (f : State → Host.Outcome State Fault Refusal) :
    andThen (.refused r) f = .refused r := rfl

/-- Going on ends in a next state only through a next state. -/
theorem andThen_eq_next {o : Host.Outcome State Fault Refusal} {f : State → Host.Outcome State Fault Refusal}
    {t : State} : andThen o f = .next t ↔ ∃ m, o = .next m ∧ f m = .next t := by
  cases o <;> simp [andThen]

theorem andThen_assoc (o : Host.Outcome State Fault Refusal) (f g : State → Host.Outcome State Fault Refusal) :
    andThen (andThen o f) g = andThen o (fun s => andThen (f s) g) := by
  cases o <;> rfl

@[simp] theorem stateAfter_next (s t : State) : stateAfter s (.next t) = t := rfl
@[simp] theorem stateAfter_fault (s : State) (r : Fault) : stateAfter s (.fault r) = s := rfl
@[simp] theorem stateAfter_refused (s : State) (r : Refusal) : stateAfter s (.refused r) = markRefused r s := rfl

/-- All that FEED can answer. -/
theorem execFeed_cases (c : CodeUnit) (s : State) :
    (s.acc = .unwritten ∧ execFeed c s = .fault .readOfUnwrittenAcc) ∨
      (∃ h, s.acc = .written h ∧ execFeed c s = .next (writeAcc (absorb h c) s)) := by
  rcases readAcc_cases s with ⟨ha, hr⟩ | ⟨h, ha, hr⟩
  · exact .inl ⟨ha, by simp [execFeed, hr]⟩
  · exact .inr ⟨h, ha, by simp [execFeed, hr]⟩

/-- When a command answers a next state, what that state is: nothing but ACC can differ. -/
theorem exec_next_cases {i : Instr} {s t : State} (h : exec i s = .next t) :
    (∃ d, i = .nop d ∧ t = s) ∨ (∃ d, i = .init d ∧ t = loadSeed s) ∨
      (∃ c v, i = .feed c ∧ s.acc = .written v ∧ t = writeAcc (absorb v c) s) := by
  cases i with
  | nop d => exact .inl ⟨d, rfl, by simpa [exec, execNop] using h.symm⟩
  | init d => exact .inr (.inl ⟨d, rfl, by simpa [exec, execInit] using h.symm⟩)
  | feed c =>
    rcases execFeed_cases c s with ⟨_, he⟩ | ⟨v, hv, he⟩
    · simp [exec, he] at h
    · exact .inr (.inr ⟨c, v, rfl, hv, by simpa [exec, he] using h.symm⟩)
  | reserved d => simp [exec, execReserved] at h

end Sys2Proof.Machine
end

