-- ==== Sys2Proof/Laws/Clock.lean ====
section
/-! SUPPORT. What an edge and a step can do, said once. -/

namespace Sys2Proof.Machine

theorem edgeOn_marked {s : State} {r : Refusal} (h : s.refusalMark = some r) (p : PortCycle) :
    edgeOn p s = .refused r := by
  simp [edgeOn, h]

theorem edgeOn_reset {s : State} (h : s.refusalMark = none) {p : PortCycle} (hp : p.rst = true) :
    edgeOn p s = .next (loadSeed s) := by
  simp [edgeOn, h, hp]

theorem edgeOn_idle {s : State} (h : s.refusalMark = none) {p : PortCycle} (hr : p.rst = false)
    (hv : p.cmdValid = false) : edgeOn p s = .next s := by
  simp [edgeOn, h, hr, hv]

theorem edgeOn_accept {s : State} (h : s.refusalMark = none) {p : PortCycle} (hp : p.accepts = true) :
    edgeOn p s = acceptWord p.hostWord s := by
  obtain ⟨hr, hv⟩ : p.rst = false ∧ p.cmdValid = true := by simpa [PortCycle.accepts] using hp
  simp [edgeOn, h, hr, hv]

theorem acceptWord_ok {n : Nat} {i : Instr} (h : decode n = .ok i) (s : State) :
    acceptWord n s = andThen (exec i s) (fun t => .next (countAccepted t)) := by
  simp [acceptWord, h]

/-- When an edge answers a next state, which of the ways of R85 it took. -/
theorem edgeOn_next_cases {p : PortCycle} {s t : State} (h : edgeOn p s = .next t) :
    s.refusalMark = none ∧
      ((p.rst = true ∧ t = loadSeed s) ∨ (p.rst = false ∧ p.cmdValid = false ∧ t = s) ∨
        (p.accepts = true ∧ ∃ i m, decode p.hostWord = .ok i ∧ exec i s = .next m ∧ t = countAccepted m)) := by
  cases hm : s.refusalMark with
  | some r => simp [edgeOn_marked hm] at h
  | none =>
    refine ⟨rfl, ?_⟩
    cases hr : p.rst with
    | true => exact .inl ⟨rfl, by simpa [edgeOn_reset hm hr] using h.symm⟩
    | false =>
      cases hv : p.cmdValid with
      | false => exact .inr (.inl ⟨rfl, rfl, by simpa [edgeOn_idle hm hr hv] using h.symm⟩)
      | true =>
        have hp : p.accepts = true := by simp [PortCycle.accepts, hr, hv]
        rw [edgeOn_accept hm hp] at h
        cases hd : decode p.hostWord with
        | error e => simp [acceptWord, hd] at h
        | ok i =>
          rw [acceptWord_ok hd, andThen_eq_next] at h
          obtain ⟨m, he, ht⟩ := h
          exact .inr (.inr ⟨hp, i, m, rfl, he, by simpa using ht.symm⟩)

theorem edge_cons {s : State} {p : PortCycle} {ps : List PortCycle} (h : s.inputs = p :: ps) :
    edge s = edgeOn p (setInputs ps s) := by
  simp [edge, h]

theorem edge_nil {s : State} (h : s.inputs = []) : edge s = edgeOn PortCycle.idle s := by
  simp [edge, h]

/-- An edge with `rst = 1` on the port. -/
theorem edge_reset {s : State} {p : PortCycle} {ps : List PortCycle} (hm : s.refusalMark = none)
    (h : s.inputs = p :: ps) (hr : p.rst = true) : edge s = .next (loadSeed (setInputs ps s)) :=
  (edge_cons h).trans (edgeOn_reset (setInputs_refusalMark ps s ▸ hm) hr)

/-- An edge with nothing presented. -/
theorem edge_idle {s : State} {p : PortCycle} {ps : List PortCycle} (hm : s.refusalMark = none)
    (h : s.inputs = p :: ps) (hr : p.rst = false) (hv : p.cmdValid = false) : edge s = .next (setInputs ps s) :=
  (edge_cons h).trans (edgeOn_idle (setInputs_refusalMark ps s ▸ hm) hr hv)

/-- An edge that accepts a command. -/
theorem edge_accept {s : State} {p : PortCycle} {ps : List PortCycle} {i : Instr} (hm : s.refusalMark = none)
    (h : s.inputs = p :: ps) (hp : p.accepts = true) (hd : decode p.hostWord = .ok i) :
    edge s = andThen (exec i (setInputs ps s)) (fun t => .next (countAccepted t)) :=
  (edge_cons h).trans ((edgeOn_accept (setInputs_refusalMark ps s ▸ hm) hp).trans (acceptWord_ok hd _))

@[simp] theorem runEdges_zero (s : State) : runEdges 0 s = .next s := rfl
theorem runEdges_succ (n : Nat) (s : State) : runEdges (n + 1) s = andThen (edge s) (runEdges n) := rfl

@[simp] theorem execAll_nil (s : State) : execAll [] s = .next s := rfl
theorem execAll_cons (i : Instr) (is : List Instr) (s : State) :
    execAll (i :: is) s = andThen (exec i s) (fun t => execAll is (countAccepted t)) := rfl

@[simp] theorem stepThrough_nil (s : State) :
    stepThrough [] s = edgeOn PortCycle.idle (setInputs [] s) := rfl

theorem stepThrough_accept {p : PortCycle} (hp : p.accepts = true) (ps : List PortCycle) (s : State) :
    stepThrough (p :: ps) s = edgeOn p (setInputs ps s) := by
  simp [stepThrough, hp]

theorem stepThrough_pass {p : PortCycle} (hp : p.accepts = false) (ps : List PortCycle) (s : State) :
    stepThrough (p :: ps) s = andThen (edgeOn p (setInputs ps s)) (stepThrough ps) := by
  simp [stepThrough, hp]

/-- An edge only takes input cycles away; the command itself leaves the cycles alone. -/
theorem edgeOn_next_inputs {p : PortCycle} {s t : State} (h : edgeOn p s = .next t) : t.inputs = s.inputs := by
  obtain ⟨-, ⟨-, rfl⟩ | ⟨-, -, rfl⟩ | ⟨-, i, m, -, he, rfl⟩⟩ := edgeOn_next_cases h
  · rfl
  · rfl
  · rcases exec_next_cases he with ⟨_, _, rfl⟩ | ⟨_, _, rfl⟩ | ⟨_, _, _, _, rfl⟩ <;> rfl

end Sys2Proof.Machine
end

