-- ==== Sys2Proof/Laws/Fold.lean ====
section
/-! SUPPORT. The fold stage loses nothing when its integer result is returned on 16 bits. -/

namespace Sys2Proof.Machine

@[simp] theorem constants_offset : (constants.offset : Int) = 65 := rfl
@[simp] theorem constants_wrap : (constants.wrap : Int) = 256 := rfl
@[simp] theorem constants_foldMax : (constants.foldMax : Int) = 25 := rfl
@[simp] theorem constants_foldAdd : (constants.foldAdd : Int) = 32 := rfl

/-- The integer that the three steps leave is a 16-bit unsigned value. -/
theorem foldSteps_fit (c : CodeUnit) :
    0 ≤ foldWindow (raiseNegative (offsetFromA c)) ∧ foldWindow (raiseNegative (offsetFromA c)) < 2 ^ 16 := by
  have hc := c.isLt
  simp only [foldWindow, raiseNegative, offsetFromA, constants_offset, constants_wrap, constants_foldMax,
    constants_foldAdd]
  split_ifs <;> omega

/-- `fold` as an integer is what the three steps leave. -/
theorem fold_toInt_exact (c : CodeUnit) : ((fold c).toNat : Int) = foldWindow (raiseNegative (offsetFromA c)) := by
  obtain ⟨h0, h1⟩ := foldSteps_fit c
  rw [fold, BitVec.toNat_ofInt]
  omega

end Sys2Proof.Machine
end

