-- ==== Sys2Proof/Laws/PerInstr.lean ====
section
/-! SUPPORT. Statements about every command as syntax, one lemma for each constructor. -/

namespace Sys2Proof.Laws.EncodeFields

/-- A command's word holds its `op` bits in `[17:16]` and its `data` bits in `[15:0]` (30_encoding.md R33, R35). -/
def Statement (i : Instr) : Prop := opField (encode i) = i.op ∧ dataField (encode i) = i.data

theorem nop (data : CodeUnit) : Statement (.nop data) := ⟨opField_encode _, dataField_encode _⟩
theorem init (data : CodeUnit) : Statement (.init data) := ⟨opField_encode _, dataField_encode _⟩
theorem feed (c : CodeUnit) : Statement (.feed c) := ⟨opField_encode _, dataField_encode _⟩
theorem reserved (data : CodeUnit) : Statement (.reserved data) := ⟨opField_encode _, dataField_encode _⟩

end Sys2Proof.Laws.EncodeFields
end

