-- ==== Sys2Proof/Laws/Safety.lean ====
section
/-! SUPPORT. The run of the model's own claims is the run of the host's interface, and the small facts of the checks. -/

namespace Sys2Proof.Machine

/-- The host's run goes on exactly from a next state. -/
theorem core_run_succ (M : Host.Core) (n : Nat) (s : M.State) :
    (∀ t, M.step s = .next t → M.run (n + 1) s = M.run n t) ∧ (∀ r, M.step s = .fault r → M.run (n + 1) s = .fault r) ∧
      (∀ r, M.step s = .refused r → M.run (n + 1) s = .refused r) := by
  refine ⟨fun t h => ?_, fun r h => ?_, fun r h => ?_⟩ <;> simp [Host.Core.run, h]

theorem runSteps_eq_core_run (n : Nat) (s : State) : runSteps n s = Host.Core.run core n s := by
  induction n generalizing s with
  | zero => rfl
  | succ n ih =>
    obtain ⟨hn, hf, hr⟩ := core_run_succ core n s
    rw [runSteps]
    cases h : step s with
    | next t => exact (ih t).trans (hn t h).symm
    | fault r => exact (hf r h).symm
    | refused r => exact (hr r h).symm

@[simp] theorem isWritten_unwritten : Accumulator.unwritten.isWritten = false := rfl
@[simp] theorem isWritten_written (v : Word) : (Accumulator.written v).isWritten = true := rfl

theorem isWritten_iff (a : Accumulator) : a.isWritten = true ↔ ∃ v, a = .written v := by
  cases a <;> simp

theorem isRunning_iff (s : State) : s.isRunning = true ↔ s.refusalMark = none ∧ ∃ v, s.acc = .written v := by
  simp [State.isRunning, isWritten_iff]

theorem isSafe_iff (s : State) :
    s.isSafe = true ↔ s.refusalMark = none ∧ keepsDuties s.acc.isWritten s.inputs = true := by
  simp [State.isSafe]

end Sys2Proof.Machine
end

