-- ==== Sys2Proof/Tests/Slice0.lean ====
section
/-! SUPPORT. The model's own tests, expected values from 95_test_vectors.md and hand calculation from the rules, and a
witness for the hypotheses of every statement that has some. -/

namespace Sys2Proof.Tests

open Sys2Proof Sys2Proof.Machine

/-- A state with the value `v` in ACC and the cycles `ps` on the ports. -/
def holding (v : Word) (ps : List PortCycle) : State := { State.reset with acc := .written v, inputs := ps }

/-- A cycle that presents the host's word `n`. -/
def present (n : Nat) : PortCycle := { rst := false, cmdValid := true, hostWord := n }

/-- A cycle with `cmd_valid = 0` and the host's word `n`. -/
def idle (n : Nat) : PortCycle := { rst := false, cmdValid := false, hostWord := n }

/-- A cycle with `rst = 1` that also presents the host's word `n`. -/
def resetting (n : Nat) : PortCycle := { rst := true, cmdValid := true, hostWord := n }

/-- A state whose mark is set. -/
def marked (ps : List PortCycle) : State :=
  { holding 0x00001505#32 ps with refusalMark := some (.reservedCommand 0 0x30000#18) }

/-! ## Well-formedness: an ill-formed term for each check -/

theorem test_reserved_is_ill_formed : (Instr.reserved 0x0000#16).wellFormed = false := by decide
theorem test_wide_word_does_not_fit : hostWordFits 0x40061 = false := by decide
theorem test_operand_out_of_range_is_ill_formed : (AsmLine.feed 65536).wellFormed = false := by decide

/-! ## Decoding: words written out from 30_encoding.md R33 and R35 -/

theorem test_decode_nop : decode 0b00_0000000000000000 = .ok (.nop 0x0000#16) := by decide
theorem test_decode_nop_with_data : decode 0b00_1111111111111111 = .ok (.nop 0xFFFF#16) := by decide
theorem test_decode_init : decode 0b01_0000000000000000 = .ok (.init 0x0000#16) := by decide
theorem test_decode_init_with_data : decode 0b01_0000000001000001 = .ok (.init 0x0041#16) := by decide
theorem test_decode_feed : decode 0b10_0000000001100001 = .ok (.feed 0x0061#16) := by decide
theorem test_decode_feed_surrogate : decode 0b10_1101100000111101 = .ok (.feed 0xD83D#16) := by decide
theorem test_decode_reserved : decode 0b11_1010101111001101 = .ok (.reserved 0xABCD#16) := by decide
theorem test_decode_wide : decode 0b1_00_0000000001100001 = .error (.wideHostWord 0x40061) := by decide
theorem test_decodeTableWord_feed : decodeTableWord 24 0x20061 = some (.feed 0x0061#16) := by decide
theorem test_encode_feed : encode (.feed 0x0041#16) = 0x20041#18 := by decide
theorem test_encode_reserved : encode (.reserved 0xABCD#16) = 0x3ABCD#18 := by decide

/-! ## The constants of 00_scope.md R6, and MULT = (2^SHIFT) + 1 -/

theorem test_constants : constants = ⟨5381, 65, 256, 25, 32, 5, 33⟩ ∧ seedWord = 0x00001505#32 ∧ constants.mult = 2 ^ constants.shift + 1 := by decide

/-! ## The fold stage: V-FOLD -/

theorem test_fold_low : fold 0x0000#16 = 0x00BF#16 ∧ fold 0x0040#16 = 0x00FF#16 := by decide
theorem test_fold_upper : fold 0x0041#16 = 0x0020#16 ∧ fold 0x005A#16 = 0x0039#16 := by decide
theorem test_fold_between : fold 0x005B#16 = 0x001A#16 ∧ fold 0x0060#16 = 0x001F#16 := by decide
theorem test_fold_lower : fold 0x0061#16 = 0x0020#16 ∧ fold 0x007A#16 = 0x0039#16 := by decide
theorem test_fold_high : fold 0x0141#16 = 0x0100#16 ∧ fold 0xD83D#16 = 0xD7FC#16 ∧ fold 0xFFFF#16 = 0xFFBE#16 := by decide

/-! ## The update and the hash: V-MIX, V-H -/

theorem test_mix_5 : mix 0xFFFFFFFF#32 0x0020#16 = 0xFFFFFFFF#32 := by decide
theorem test_mix_9 : mixShift 0x12345678#32 = 0x468ACF00#32 ∧ mixAdd 0x12345678#32 = 0x58BF2578#32 ∧
    mix 0x12345678#32 0x003A#16 = 0x58BF2542#32 := by decide
theorem test_mix_10 : mix 0x7C4A7406#32 0x002E#16 = 0x0598F4E8#32 := by decide
theorem test_hash_hello : stringHash [0x68#16, 0x65#16, 0x6C#16, 0x4C#16, 0x4F#16] = 0x0598F4E8#32 := by decide
theorem test_hash_surrogates : stringHash [0xD83D#16, 0xDE00#16] = 0x004E70C6#32 := by decide

/-! ## The commands: V-CTL, V-CYC -/

theorem test_nop : exec (.nop 0xFFFF#16) (holding 0x0002B585#32 []) = .next (holding 0x0002B585#32 []) := rfl
theorem test_nop_unwritten : exec (.nop 0x0000#16) State.powerUp = .next State.powerUp := rfl
theorem test_init : exec (.init 0x0041#16) (holding 0x0598F4E8#32 []) = .next (holding 0x00001505#32 []) := rfl
theorem test_init_unwritten : exec (.init 0x0000#16) State.powerUp = .next State.reset := rfl
theorem test_feed : exec (.feed 0x0069#16) (holding 0x0002B582#32 []) = .next (holding 0x005965EA#32 []) := rfl
theorem test_feed_unwritten : exec (.feed 0x0061#16) State.powerUp = .fault .readOfUnwrittenAcc := rfl
theorem test_reserved : edge (holding 0x00001505#32 [present 0x3ABCD]) = .refused (.reservedCommand 0 0x3ABCD#18) := rfl
theorem test_wide : edge (holding 0x00001505#32 [present 0x40061]) = .refused (.wideHostWord 0 0x40061) := rfl
theorem test_reset_wins : edge (holding 0x12345678#32 [resetting 0x2007A]) = .next (holding 0x00001505#32 []) := rfl
theorem test_idle_reserved : edge (holding 0x0002B585#32 [idle 0x3FFFF]) = .next (holding 0x0002B585#32 []) := rfl
theorem test_mark_survives_reset :
    (afterEdges 2 (holding 0x00001505#32 [present 0x30000, resetting 0])).refusalMark =
      some (.reservedCommand 0 0x30000#18) := by decide
theorem test_step_passes_idle_and_reset :
    step (holding 0x12345678#32 [idle 0x3FFFF, resetting 0x2007A, present 0x20061, present 0x10000]) =
      .next { holding 0x0002B585#32 [present 0x10000] with accepted := 1 } := rfl
theorem test_step_fetches_what_is_put : step (State.reset.withFetchWord 24 0x20061) =
    .next { holding 0x0002B585#32 [] with accepted := 1 } := rfl
theorem test_fold_out_in_nop : foldOut (holding 0x0002B585#32 [present 0x0FFFF]) = some 0xFFBE#16 := by decide

/-! ## The assembler and the listing: 30_encoding.md R41 to R45 -/

theorem test_assemble_program : assemble "  init ; start\nFEED 'H'\n\nNOP\nFeed 0x69 ; i".toList =
    .ok [0x10000#18, 0x20048#18, 0x00000#18, 0x20069#18] := by decide
theorem test_assemble_feeds : assemble "FEEDS \"😀\\0Ā\"".toList =
    .ok [0x2D83D#18, 0x2DE00#18, 0x20000#18, 0x20100#18] := by decide
theorem test_assemble_hash : assemble "HASH \";\\u0041\\\"\"".toList =
    .ok [0x10000#18, 0x2003B#18, 0x20041#18, 0x20022#18] := by decide
theorem test_assemble_operand_range : assemble "FEED 65536".toList = .error .operandRange := by decide
theorem test_assemble_no_reserved_mnemonic : assemble "RESERVED".toList = .error .unknownMnemonic := by decide
theorem test_listing : listing 0x2D83D#18 = "0x2D83D".toList := by decide

/-! ## Witnesses: a state and operands that meet the hypotheses of each statement, clause by clause -/

/-- Cycles that feed "H", idle, and "i": nothing that starts a string. -/
def fedCycles : List PortCycle := [present 0x20048, idle 0x3FFFF, present 0x00000, present 0x20069]

/-- A NOP, an INIT, an idle cycle with a wide word, and a FEED. -/
def hostCycles : List PortCycle := [present 0x0FFFF, present 0x10041, idle 0x40000, present 0x20061]

theorem test_witness_HashOutEqualsAcc :
    (holding 0xFFFFFFFF#32 []).acc = .written 0xFFFFFFFF#32 ∧ State.powerUp.acc = .unwritten ∧
    edge (holding 7#32 [present 0x10000]) = .next { holding 0x00001505#32 [] with accepted := 1 } :=
  ⟨rfl, rfl, rfl⟩
theorem test_witness_FoldOutShowsTheFoldOfTheDataBits :
    (holding 0#32 [idle 0x3FFFF]).inputs = idle 0x3FFFF :: [] := rfl
theorem test_witness_CommandsChangeNothingButAcc :
    exec (.init 0#16) (holding 0#32 []) = .next (holding 0x00001505#32 []) ∧
    (holding 0x00001505#32 []).acc ≠ (holding 0#32 []).acc := ⟨rfl, by decide⟩
theorem test_witness_EdgesCountAcceptedCommands :
    runEdges 3 (holding 0#32 [present 0x20041, idle 0x20041]) = .next { holding 0x00000020#32 [] with accepted := 1 } := rfl
theorem test_witness_EdgesTakeEffectInOrder :
    State.powerUp.refusalMark = none ∧ hostCycles.filterMap PortCycle.command = [.nop 0xFFFF#16, .init 0x41#16, .feed 0x61#16] ∧
    (∀ q ∈ hostCycles, q.rst = false ∧ (q.cmdValid = true → q.hostWord < 2 ^ 18)) ∧
    runEdges 4 { State.powerUp with inputs := hostCycles ++ [present 0x20041] } =
      .next { holding 0x0002B585#32 [present 0x20041] with accepted := 3 } ∧
    (holding 0#32 [present 0x3FFFF]).inputs = [Instr.reserved 0xFFFF#16].map PortCycle.present ++ [] :=
  ⟨rfl, by decide, by decide, rfl, by decide⟩
theorem test_witness_DecodeAndEncodeAgree : decode 0x3FFFF = .ok (.reserved 0xFFFF#16) := by decide
theorem test_witness_EachWordMatchesOneOpcodeRow :
    (⟨"(reserved)", 0x30000#18, 0x30000#18⟩ : OpcodeRow) ∈ opcodeRows := by decide
theorem test_witness_NopAndInitIgnoreData :
    (holding 0#32 [PortCycle.present (.nop 0xFFFF#16)]).inputs = [PortCycle.present (.nop 0xFFFF#16)] ∧
    (holding 0#32 [PortCycle.present (.init 0xFFFF#16)]).inputs = [PortCycle.present (.init 0xFFFF#16)] := ⟨rfl, rfl⟩
theorem test_witness_IdleCycleIsNotDecoded :
    (holding 0#32 [idle 0x3FFFF]).refusalMark = none ∧ (idle 0x3FFFF).rst = false ∧ (idle 0x3FFFF).cmdValid = false ∧
    (holding 0#32 [PortCycle.present (.nop 0#16)]).inputs = [PortCycle.present (.nop 0#16)] ∧
    (idle 0x3FFFF).accepts = false ∧ (resetting 0x3FFFF).accepts = false ∧ (resetting 0x3FFFF).rst = true := by decide
theorem test_witness_WordsAreNumberedByOpAndData :
    17 < 18 ∧ Nat.testBit 0x40000 18 = true ∧ State.reset.refusalMark = none ∧
    (holding 0#32 [present 0x40000]).inputs = { rst := false, cmdValid := true, hostWord := 0x40000 } :: [] := by decide
theorem test_witness_AssemblerEmitsOnlyLegalWords :
    65535 < 65536 ∧ (∀ c ∈ ['f', 'e', 'E', 'd'], endsMnemonic c = false) ∧
    (∀ c ∈ [' ', '7'].head?, endsMnemonic c = true) ∧ assemble "feed 65535".toList = .ok [0x2FFFF#18] :=
  ⟨by decide, by simp [endsMnemonic, isBlank], by simp [endsMnemonic, isBlank], by decide⟩
theorem test_witness_WideHostWordIsRefusedForGood :
    (holding 7#32 [present 0x40000]).refusalMark = none ∧ (holding 7#32 [present 0x40000]).inputs = present 0x40000 :: [] ∧
    17 < 18 ∧ (present 0x40000).hostWord.testBit 18 = true ∧
    ((present 0x40000).rst = false ∧ (present 0x40000).cmdValid = true) ∧
    ((idle 0x40000).hostWord.testBit 18 = true ∧ (idle 0x40000).rst = false ∧ (idle 0x40000).cmdValid = false) ∧
    ((resetting 0x40000).hostWord.testBit 18 = true ∧ (resetting 0x40000).rst = true) := by decide
theorem test_writes_decimal : WritesOperand "65535".toList 65535 ∧ WritesOperand "65536".toList 65536 :=
  ⟨.inl (.inl ⟨[6, 5, 5, 3, 5], by simp, by repeat constructor, rfl⟩),
    .inl (.inl ⟨[6, 5, 5, 3, 6], by simp, by repeat constructor, rfl⟩)⟩
theorem test_writes_hexadecimal : WritesOperand "0xfF".toList 255 ∧ assembleTextLine "FEED 0xfF".toList = .ok [0x200FF#18] :=
  ⟨.inl (.inr ⟨[15, 15], ['f', 'F'], by simp, .cons (.inr rfl) (.cons (.inl rfl) .nil), rfl, rfl⟩), by decide⟩
theorem test_writes_literals : WritesOperand "'a'".toList 0x61 ∧ WritesOperand "'\\0'".toList 0 ∧ 0x10000 ≤ '😀'.toNat :=
  ⟨.inr (.inl ⟨'a', by decide, rfl, rfl⟩), .inr (.inr ⟨rfl, rfl⟩), by decide⟩
theorem test_witness_AssemblerTakesEveryCommandForm :
    IsGap ['\t'] ∧ IsGap [' '] ∧ [' '] ≠ [] ∧ IsMnemonic ['N', 'O', 'P'] "nop".toList ∧
    IsMnemonic ['I', 'N', 'I', 'T'] "Init".toList ∧ IsMnemonic ['F', 'E', 'E', 'D'] "fEED".toList ∧
    IsLineEnd " ; x".toList ∧ isBlank '7' = false ∧ '7' ≠ ';' :=
  ⟨by simp [IsGap], by simp [IsGap], by simp, rfl, rfl, rfl,
    ⟨[' '], "; x".toList, by simp [IsGap], .inr ⟨" x".toList, rfl⟩, rfl⟩, by decide, by decide⟩
theorem test_witness_AssemblerTakesQuotedTexts :
    List.Forall₂ WritesItem [.char 'h', .char '"', .char '\\', .unit 0#16, .unit 0xD83d#16]
      ["h".toList, "\\\"".toList, "\\\\".toList, "\\0".toList, "\\uD83d".toList] ∧
    IsMnemonic ['F', 'E', 'E', 'D', 'S'] "feeds".toList ∧ IsMnemonic ['H', 'A', 'S', 'H'] "Hash".toList ∧ IsLineEnd [] :=
  ⟨.cons (.inl ⟨'h', by decide, by decide, rfl, rfl⟩) (.cons (.inr (.inl ⟨rfl, rfl⟩)) (.cons (.inr (.inr (.inl ⟨rfl, rfl⟩)))
    (.cons (.inr (.inr (.inr (.inl ⟨rfl, rfl⟩)))) (.cons (.inr (.inr (.inr (.inr ⟨13, 8, 3, 13, 'D', '8', '3', 'd',
      .inl rfl, .inl rfl, .inl rfl, .inr rfl, rfl, rfl⟩)))) .nil)))), rfl, rfl, [], [], by simp [IsGap], .inl rfl, rfl⟩
theorem test_witness_AssemblerReadsLineByLine :
    IsLineEnd "; only a comment".toList ∧ '\n' ∉ "INIT".toList ∧ assembleTextLine "INIT".toList = .ok [0x10000#18] ∧
    assemble "FEED 1".toList = .ok [0x20001#18] ∧ assembleTextLine "FEED".toList = .error .badOperand ∧
    assemble "FEED".toList = .error .badOperand :=
  ⟨⟨[], "; only a comment".toList, by simp [IsGap], .inr ⟨" only a comment".toList, rfl⟩, rfl⟩, by decide, by decide,
    by decide, by decide, by decide⟩
theorem test_witness_HashPseudoInstructionHashesItsText :
    assembleLine (.hash [.char 'i']) = .ok [0x10000#18, 0x20069#18] ∧ State.powerUp.refusalMark = none ∧
    ({ State.powerUp with inputs := [present 0x10000, present 0x20069, idle 0] } : State).inputs =
      [0x10000#18, 0x20069#18].map (fun w => PortCycle.present (decodeWord w)) ++ [idle 0] := by decide
theorem test_witness_NopChangesNothing :
    State.powerUp.refusalMark = none ∧
    (holding 0#32 [PortCycle.present (.nop 0xFFFF#16)]).inputs = [PortCycle.present (.nop 0xFFFF#16)] ∧
    (idle 0x3FFFF).rst = false ∧ (idle 0x3FFFF).cmdValid = false := by decide
theorem test_witness_InitLoadsTheSeed :
    exec (.init 0#16) State.powerUp = .next State.reset ∧ State.powerUp.refusalMark = none ∧
    (resetting 0x10000).rst = true := ⟨rfl, rfl, rfl⟩
theorem test_witness_InitWithoutFeedShowsTheSeed :
    State.powerUp.refusalMark = none ∧
    (holding 7#32 [PortCycle.present (.init 0#16), idle 0x3FFFF, present 0x00041, present 0x20041]).inputs =
      PortCycle.present (.init 0#16) :: ([idle 0x3FFFF, present 0x00041] ++ [present 0x20041]) ∧
    (∀ q ∈ [idle 0x3FFFF, present 0x00041], q.isQuiet = true) := by decide
theorem test_witness_ResultDependsOnlyOnUnitsFedSinceStart :
    (holding 7#32 (resetting 0x3FFFF :: fedCycles)).refusalMark = none ∧
    (holding 7#32 (resetting 0x3FFFF :: fedCycles)).inputs = resetting 0x3FFFF :: (fedCycles ++ []) ∧
    (holding 9#32 [present 0x10000, present 0x20048, present 0x20069]).inputs =
      present 0x10000 :: ([present 0x20048, present 0x20069] ++ []) ∧
    (resetting 0x3FFFF).startsString = true ∧ (present 0x10000).startsString = true ∧
    (∀ q ∈ fedCycles, q.continuesString = true) ∧
    (∀ q ∈ [present 0x20048, present 0x20069], q.continuesString = true) ∧
    fedUnits fedCycles = fedUnits [present 0x20048, present 0x20069] ∧ fedUnits fedCycles = [0x48#16, 0x69#16] := by decide
theorem test_witness_FoldComputesItsThreeSteps :
    (-65 : Int) = ((0#16 : CodeUnit).toNat : Int) - 65 ∧ (191 : Int) = (if (-65 : Int) < 0 then -65 + 256 else -65) ∧
    (191 : Int) = (if (191 : Int) ≤ 25 then 191 + 32 else 191) ∧
    (25 : Int) = ((90#16 : CodeUnit).toNat : Int) - 65 ∧ (25 : Int) = (if (25 : Int) < 0 then 25 + 256 else 25) ∧
    (57 : Int) = (if (25 : Int) ≤ 25 then 25 + 32 else 25) := by decide
theorem test_witness_FoldHasItsClosedForm :
    (64#16 : CodeUnit).toNat ≤ 64 ∧ 65 ≤ (65#16 : CodeUnit).toNat ∧ (90#16 : CodeUnit).toNat ≤ 90 ∧
    91 ≤ (91#16 : CodeUnit).toNat ∧ fold 64#16 = 255#16 ∧ fold 65#16 = 32#16 ∧ fold 90#16 = 57#16 ∧ fold 91#16 = 26#16 := by
  decide
theorem test_witness_FoldCollidesOnlyOnCasePairsAndAliases :
    (90#16 : CodeUnit).toNat < (122#16 : CodeUnit).toNat ∧ fold 90#16 = fold 122#16 ∧ fold 64#16 = fold 320#16 ∧
    fold 91#16 ≠ fold 123#16 ∧ fold 65#16 ≠ fold 321#16 := by decide
theorem test_witness_FoldPreimageCounts : ∃ pre : FoldedOffset → Nat,
    ∀ v, pre v = (Finset.univ.filter fun c : CodeUnit => fold c = v).card := ⟨_, fun _ => rfl⟩
theorem test_witness_MixShiftsAddsAndXors :
    0xFFFFFFE0 = ((0xFFFFFFFF#32 : Word).toNat * 2 ^ 5) % 2 ^ 32 ∧
    0xFFFFFFDF = (0xFFFFFFE0 + (0xFFFFFFFF#32 : Word).toNat) % 2 ^ 32 := by decide
theorem test_witness_FeedFoldsAndAccumulates :
    (holding 0x80000000#32 []).acc = .written 0x80000000#32 ∧ State.powerUp.acc = .unwritten := by decide
theorem test_witness_FeedingAStringLeavesItsHash :
    State.powerUp.refusalMark = none ∧
    ({ State.powerUp with inputs := present 0x10000 :: fedCycles } : State).inputs = present 0x10000 :: (fedCycles ++ []) ∧
    (present 0x10000).startsString = true ∧ (resetting 0x30000).startsString = true ∧
    (∀ q ∈ fedCycles, q.continuesString = true) ∧ (present 0x10000).rst = false := by decide
theorem test_witness_FeedingGoesOnFromTheHashOfTheFirstPart :
    (holding (stringHash [0x48#16]) fedCycles).refusalMark = none ∧
    (holding (stringHash [0x48#16]) fedCycles).acc = .written (stringHash [0x48#16]) ∧
    (holding (stringHash [0x48#16]) fedCycles).inputs = fedCycles ++ [] ∧
    (∀ q ∈ fedCycles, q.continuesString = true) := by decide
theorem test_witness_HashIgnoresCaseAndAliases :
    [0x41#16, 0x00#16].map fold = [0x61#16, 0x100#16].map fold ∧
    (65 ≤ (0x5A#16 : CodeUnit).toNat ∧ (0x5A#16 : CodeUnit).toNat ≤ 90 ∧ (0x7A#16 : CodeUnit).toNat = (0x5A#16 : CodeUnit).toNat + 32) ∧
    ((0x40#16 : CodeUnit).toNat ≤ 64 ∧ (0x140#16 : CodeUnit).toNat = (0x40#16 : CodeUnit).toNat + 256) := by decide
theorem test_witness_MixIsInvertible :
    mix 0x12345678#32 0x003A#16 = 0x58BF2542#32 ∧ mix 0#32 0xFFBE#16 = mix 0#32 0xFFBE#16 := by decide
theorem test_witness_EverySingleUnitChangeIsDetected :
    [0x41#16].map fold = [0x61#16].map fold ∧ [0x100#16].map fold = [0x00#16].map fold ∧
    fold 0x78#16 ≠ fold 0x79#16 := by decide
theorem test_witness_ReservedCommandIsRefusedForGood :
    (holding 0#32 [present 0x3FFFF]).refusalMark = none ∧ (holding 0#32 [present 0x3FFFF]).inputs = present 0x3FFFF :: [] ∧
    (present 0x3FFFF).rst = false ∧ (present 0x3FFFF).cmdValid = true ∧
    (present 0x3FFFF).hostWord = 0x30000 + (0xFFFF#16 : CodeUnit).toNat ∧
    (marked [resetting 0]).refusalMark = some (.reservedCommand 0 0x30000#18) := by decide
theorem test_witness_ResetWinsOverACommand :
    State.powerUp.refusalMark = none ∧ (holding 0#32 [resetting 0x3FFFF]).inputs = resetting 0x3FFFF :: [] ∧
    (resetting 0x3FFFF).rst = true ∧ (resetting 0x3FFFF).cmdValid = true ∧ (resetting 0x3FFFF).hostWord < 2 ^ 18 := by
  decide
theorem test_witness_InstancesDoNotInteract :
    [State.reset, State.powerUp][1]? = some State.powerUp ∧
    (runSchedule [0, 1, 0] [holding 0#32 [present 0x20041], { State.powerUp with inputs := [present 0x10000] }])[1]? =
      some { State.reset with accepted := 1 } := by decide
theorem test_witness_InstancesDoNotInteract_string :
    ({ State.powerUp with inputs := present 0x10000 :: fedCycles } : State).inputs = present 0x10000 :: (fedCycles ++ []) ∧
    (present 0x10000).startsString = true ∧ (∀ q ∈ fedCycles, q.continuesString = true) ∧
    [1, 0, 1, 1, 0, 1, 1].count 1 = fedCycles.length + 1 ∧ State.powerUp.refusalMark = none := by decide
theorem test_witness_ResetEdgeLoadsTheSeed :
    State.powerUp.refusalMark = none ∧ (holding 0#32 [resetting 0x3FFFF]).inputs = resetting 0x3FFFF :: [] ∧
    (resetting 0x3FFFF).rst = true ∧ (marked [resetting 0]).refusalMark = some (.reservedCommand 0 0x30000#18) ∧
    (marked [resetting 0]).inputs = resetting 0 :: [] := by decide
theorem test_witness_UnwrittenAccFaultsWhenRead :
    State.powerUp.acc = .unwritten ∧ State.powerUp.refusalMark = none ∧ (idle 0x3FFFF).isQuiet = true ∧
    (present 0x0FFFF).isQuiet = true ∧ (present 0x10000).startsString = true ∧ (resetting 0x3FFFF).startsString = true := by
  decide
theorem test_witness_HeldResetIsOneReset :
    (holding 0#32 [resetting 0x30000, resetting 0, present 0x10000]).inputs =
      resetting 0x30000 :: ([resetting 0] ++ [present 0x10000]) ∧
    (resetting 0x30000).rst = true ∧ (∀ r ∈ [resetting 0], r.rst = true) ∧ State.powerUp.refusalMark = none := by decide
theorem test_witness_NextStateFunction :
    (holding 5#32 [present 0x2FFFF]).refusalMark = none ∧
    (holding 5#32 [present 0x2FFFF]).inputs =
      [{ rst := false, cmdValid := true, hostWord := (0b10#2 : OpField).toNat * 0x10000 + (0xFFFF#16 : CodeUnit).toNat }] ∧
    ({ State.powerUp with inputs := [idle 0x10000] } : State).inputs =
      [{ rst := false, cmdValid := false, hostWord := (0b01#2 : OpField).toNat * 0x10000 + (0#16 : CodeUnit).toNat }] ∧
    (holding 5#32 [resetting 0x3FFFF]).inputs =
      [{ rst := true, cmdValid := true, hostWord := (0b11#2 : OpField).toNat * 0x10000 + (0xFFFF#16 : CodeUnit).toNat }] ∧
    (holding 5#32 []).acc = .written 5#32 ∧ State.powerUp.acc = .unwritten := by decide
theorem test_witness_HashOutFollowsAfterTheEdge :
    (holding (stringHash [0x48#16]) [PortCycle.present (.feed 0x69#16)]).refusalMark = none ∧
    (holding (stringHash [0x48#16]) [PortCycle.present (.feed 0x69#16)]).acc = .written (stringHash [0x48#16]) ∧
    (holding (stringHash [0x48#16]) [PortCycle.present (.feed 0x69#16)]).inputs =
      PortCycle.present (.feed 0x69#16) :: [] := by decide
theorem test_witness_BackToBackCommandsAreAllAccepted :
    (holding 0#32 [present 0x20041, present 0x10000, present 0x0FFFF]).refusalMark = none ∧
    (∀ i ∈ [Instr.feed 0x41#16, .init 0#16, .nop 0xFFFF#16], ∀ d, i ≠ .reserved d) ∧
    (holding 0#32 [present 0x20041, present 0x10000, present 0x0FFFF]).acc.isWritten = true ∧
    (holding 0#32 [present 0x20041, present 0x10000, present 0x0FFFF]).inputs =
      [Instr.feed 0x41#16, .init 0#16, .nop 0xFFFF#16].map PortCycle.present ++ [] ∧
    0 ≤ [Instr.feed 0x41#16, .init 0#16, .nop 0xFFFF#16].length ∧
    3 ≤ [Instr.feed 0x41#16, .init 0#16, .nop 0xFFFF#16].length :=
  ⟨by decide, by simp, by decide, by decide, by decide, by decide⟩
theorem test_witness_BackToBackCommandsAreAllAccepted_powerUp :
    State.powerUp.acc.isWritten = false ∧ State.powerUp.refusalMark = none ∧
    (∀ i ∈ [Instr.nop 0#16, .init 0#16, .feed 0x41#16], ∀ d, i ≠ .reserved d) ∧
    (∀ pre c post, [Instr.nop 0#16, .init 0#16, .feed 0x41#16] = pre ++ .feed c :: post → ∃ d, .init d ∈ pre) ∧
    ({ State.powerUp with inputs := [present 0x00000, present 0x10000, present 0x20041] } : State).inputs =
      [Instr.nop 0#16, .init 0#16, .feed 0x41#16].map PortCycle.present ++ [] := by
  refine ⟨rfl, rfl, by simp, fun pre c post h => ?_, by decide⟩
  match pre with
  | [] => simp at h
  | [_] => simp at h
  | [_, b] => exact ⟨0#16, by simp_all⟩
  | _ :: _ :: _ :: _ => simp at h
theorem test_witness_StepRunsTheDecodedCommand :
    (holding 0#32 [present 0x20041]).refusalMark = none ∧ (holding 0#32 [present 0x20041]).inputs = present 0x20041 :: [] ∧
    (present 0x20041).rst = false ∧ (present 0x20041).cmdValid = true ∧
    decode (present 0x20041).hostWord = .ok (.feed 0x41#16) := by decide
theorem test_witness_StepRunsTheDecodedCommand_outcomes :
    exec (.feed 0x41#16) (holding 0#32 []) = .next (holding 0x00000020#32 []) ∧
    exec (.feed 0x41#16) State.powerUp = .fault .readOfUnwrittenAcc ∧
    exec (.reserved 0#16) State.powerUp = .refused (.reservedCommand 0 0x30000#18) := ⟨rfl, rfl, rfl⟩
theorem test_witness_StepIsTheEdgesUpToTheNextCommand :
    (holding 7#32 [idle 0, resetting 0x20041, present 0x20041]).inputs =
      [idle 0, resetting 0x20041] ++ present 0x20041 :: [] ∧
    (∀ q ∈ [idle 0, resetting 0x20041], q.accepts = false) ∧ (present 0x20041).accepts = true ∧
    (holding 0x00001505#32 [present 0x20041]) =
      { holding 7#32 [idle 0, resetting 0x20041, present 0x20041] with
        acc := if [idle 0, resetting 0x20041].any PortCycle.rst then .written 0x00001505#32 else .written 7#32,
        inputs := [present 0x20041] } ∧
    (holding 7#32 [idle 0]).inputs = [idle 0] := by decide
theorem test_witness_StepAcceptsExactlyOneCommand :
    step (holding 0#32 [idle 0, present 0x20041, present 0x20041]) =
      .next { holding 0x00000020#32 [present 0x20041] with accepted := 1 } ∧
    step (holding 0#32 [idle 0]) = .next (holding 0#32 []) := ⟨rfl, rfl⟩
theorem test_witness_StepKeepsTheModelRunning :
    (holding 0#32 [present 0x20041]).isRunning = true ∧
    step (holding 0#32 [present 0x20041]) = .next { holding 0x00000020#32 [] with accepted := 1 } := ⟨rfl, rfl⟩
theorem test_witness_HostThatKeepsItsDutiesIsNeverStopped :
    ({ State.powerUp with inputs := idle 0x3FFFF :: present 0x10000 :: fedCycles } : State).isSafe = true ∧
    ({ State.powerUp with inputs := fedCycles } : State).isSafe = false := by decide

end Sys2Proof.Tests
end

