-- ==== Sys2Proof/Proofs/Ports.lean ====
section
/-! PROOFS of the family 10_state.md: what the two output ports show in one cycle (R19, R20). -/

namespace Sys2Proof.Machine

/-! ## `hash_out`, a function of ACC alone -/

theorem hashOut_written {s : State} {v : Word} (h : s.acc = .written v) : hashOut s = .ok v :=
  readAcc_eq_ok.mpr h

theorem hashOut_unwritten {s : State} (h : s.acc = .unwritten) : hashOut s = .error .readOfUnwrittenAcc := by
  rcases readAcc_cases s with ⟨-, hr⟩ | ⟨v, hv, -⟩
  · exact hr
  · simp [h] at hv

@[simp] theorem hashOut_setInputs (ps : List PortCycle) (s : State) : hashOut (setInputs ps s) = hashOut s := rfl

/-- Settles O1: an edge needs no case split, since what it leaves in ACC is what the next observation reads. -/
theorem hashOutEqualsAcc : Obligations.HashOutEqualsAcc := by
  unfold Obligations.HashOutEqualsAcc
  exact ⟨fun _ _ => hashOut_written, fun _ => hashOut_unwritten, fun s ps => hashOut_setInputs ps s,
    fun _ _ _ _ => hashOut_written⟩

/-! ## `fold_out`, a function of the word's low 16 bits alone -/

/-- The port and the `data` field cut a host's number down to its low 16 bits, with no condition on the number. -/
@[simp] theorem dataField_ofNat (n : Nat) : dataField (BitVec.ofNat 18 n) = BitVec.ofNat 16 n := by
  rw [dataField, ← BitVec.setWidth_eq_extractLsb' (by decide), BitVec.setWidth_ofNat_of_le (by decide)]

/-- A number written as `op` above `data` has `data` as its low 16 bits (30_encoding.md R33). -/
theorem ofNat_op_data (op : OpField) (d : CodeUnit) : BitVec.ofNat 16 (op.toNat * 0x10000 + d.toNat) = d := by
  apply BitVec.eq_of_toNat_eq
  have hd := d.isLt
  rw [BitVec.toNat_ofNat]
  omega

theorem portFoldOut_eq (p : PortCycle) : p.foldOut = fold (BitVec.ofNat 16 p.hostWord) :=
  congrArg fold (dataField_ofNat p.hostWord)

/-- What a state shows on `fold_out` is what its current cycle's ports show. -/
theorem foldOut_cons {s : State} {p : PortCycle} {ps : List PortCycle} (h : s.inputs = p :: ps) :
    foldOut s = some p.foldOut := by
  simp [foldOut, h]

theorem foldOut_congr_inputs {s t : State} (h : s.inputs = t.inputs) : foldOut s = foldOut t := by
  rw [foldOut, foldOut, h]

/-- Changing `rst`, `cmd_valid` and the opcode field leaves `fold_out` as it is (10_state.md R20). -/
theorem portFoldOut_of_op_data (p : PortCycle) (r v : Bool) (op : OpField) :
    PortCycle.foldOut { rst := r, cmdValid := v, hostWord := op.toNat * 0x10000 + (dataField p.cmdWord).toNat } =
      p.foldOut := by
  rw [portFoldOut_eq, ofNat_op_data, PortCycle.foldOut]

/-- Settles O2: `fold_out` reads the current cycle's ports, and of these the low 16 bits of the word only. -/
theorem foldOutShowsTheFoldOfTheDataBits : Obligations.FoldOutShowsTheFoldOfTheDataBits := by
  unfold Obligations.FoldOutShowsTheFoldOfTheDataBits
  refine ⟨fun s p ps h => ?_, portFoldOut_of_op_data, fun s a m k => foldOut_congr_inputs rfl⟩
  rw [foldOut_cons h, portFoldOut_eq]

end Sys2Proof.Machine
end

/-! PROOFS of the family 20_memory.md: commands take effect in the order of acceptance (R30). The untimed meaning
`execAll` neither reads nor writes the ports, so each edge of a stream is one command of it, or nothing. -/

namespace Sys2Proof

theorem decodeWord_encode (i : Instr) : decodeWord (encode i) = i := by
  rw [decodeWord, opField_encode, dataField_encode]
  cases i <;> rfl

theorem decode_encode (i : Instr) : decode (encode i).toNat = .ok i := by
  rcases decode_cases (encode i).toNat with ⟨-, hd⟩ | ⟨hwide, -⟩
  · rwa [BitVec.ofNat_toNat, BitVec.setWidth_eq, decodeWord_encode] at hd
  · exact absurd (encode i).isLt (not_lt.mpr hwide)

namespace Machine

/-! ## Commands and the ports -/

/-- Only the next states that the outcome can answer matter to what goes on from it. -/
theorem andThen_congr {o : Host.Outcome State Fault Refusal} {f g : State → Host.Outcome State Fault Refusal}
    (h : ∀ t, o = .next t → f t = g t) : andThen o f = andThen o g := by
  cases o with
  | next t => exact h t rfl
  | fault r => rfl
  | refused r => rfl

theorem exec_next_refusalMark {i : Instr} {s t : State} (h : exec i s = .next t) :
    t.refusalMark = s.refusalMark := by
  rcases exec_next_cases h with ⟨_, _, rfl⟩ | ⟨_, _, rfl⟩ | ⟨_, _, _, _, rfl⟩ <;> rfl

@[simp] theorem readAcc_setInputs (ps : List PortCycle) (s : State) : readAcc (setInputs ps s) = readAcc s := rfl

/-- A command does not see the ports' later cycles: setting them before it or after it is the same. -/
theorem exec_setInputs (i : Instr) (ps : List PortCycle) (s : State) :
    exec i (setInputs ps s) = andThen (exec i s) (fun t => .next (setInputs ps t)) := by
  cases i with
  | nop d => rfl
  | init d => rfl
  | feed c =>
    simp only [exec, execFeed, readAcc_setInputs]
    cases readAcc s <;> rfl
  | reserved d => rfl

@[simp] theorem accepts_present (i : Instr) : (PortCycle.present i).accepts = true := rfl

theorem command_eq_some {p : PortCycle} {i : Instr} (hp : p.accepts = true) (hd : decode p.hostWord = .ok i) :
    p.command = some i := by
  rw [PortCycle.command, if_pos hp, hd]
  rfl

theorem command_eq_none {p : PortCycle} (hp : p.accepts = false) : p.command = none := by
  simp [PortCycle.command, hp]

@[simp] theorem command_present (i : Instr) : (PortCycle.present i).command = some i :=
  command_eq_some (accepts_present i) (decode_encode i)

theorem filterMap_command_present (is : List Instr) :
    (is.map PortCycle.present).filterMap PortCycle.command = is := by
  simp [List.filterMap_map]

/-! ## A stream of cycles, edge by edge -/

/-- A cycle in which the host neither holds `rst` nor presents a wide word. -/
def PortCycle.IsOrdinary (p : PortCycle) : Prop := p.rst = false ∧ (p.cmdValid = true → p.hostWord < 2 ^ 18)

/-- An ordinary cycle is idle, or it accepts a command. -/
theorem PortCycle.isOrdinary_cases {p : PortCycle} (h : p.IsOrdinary) :
    (p.rst = false ∧ p.cmdValid = false ∧ p.command = none) ∨
      ∃ i, p.accepts = true ∧ decode p.hostWord = .ok i ∧ p.command = some i := by
  obtain ⟨hr, hw⟩ := h
  cases hv : p.cmdValid with
  | false => exact .inl ⟨hr, rfl, command_eq_none (by simp [PortCycle.accepts, hv])⟩
  | true =>
    have hp : p.accepts = true := by simp [PortCycle.accepts, hr, hv]
    rcases decode_cases p.hostWord with ⟨-, hd⟩ | ⟨hwide, -⟩
    · exact .inr ⟨_, hp, hd, command_eq_some hp hd⟩
    · exact absurd (hw hv) (not_lt.mpr hwide)

theorem isOrdinary_present (i : Instr) : (PortCycle.present i).IsOrdinary := ⟨rfl, fun _ => (encode i).isLt⟩

/-- The edges of ordinary cycles are the accepted commands run in order: an idle edge is no command, and an accepting
one is the first command, whose next state has the mark still clear and the rest of the cycles on the ports. -/
theorem runEdges_eq_execAll (qs : List PortCycle) {ps : List PortCycle} {s : State} (hm : s.refusalMark = none)
    (hin : s.inputs = qs ++ ps) (hq : ∀ q ∈ qs, q.IsOrdinary) :
    runEdges qs.length s = execAll (qs.filterMap PortCycle.command) (setInputs ps s) := by
  induction qs generalizing s with
  | nil =>
    obtain rfl : s.inputs = ps := hin
    rfl
  | cons q qs ih =>
    obtain ⟨hq₀, hqs⟩ := List.forall_mem_cons.mp hq
    rw [List.length_cons, runEdges_succ]
    rcases PortCycle.isOrdinary_cases hq₀ with ⟨hr, hv, hc⟩ | ⟨i, hp, hd, hc⟩
    · rw [edge_idle hm hin hr hv, andThen_next, List.filterMap_cons_none hc]
      exact ih hm rfl hqs
    · rw [edge_accept hm hin hp hd, List.filterMap_cons_some hc, execAll_cons, exec_setInputs, exec_setInputs,
        andThen_assoc, andThen_assoc, andThen_assoc]
      refine andThen_congr fun t ht => ?_
      exact ih ((exec_next_refusalMark ht).trans hm) rfl hqs

/-! ## Commands presented one in each cycle, step by step -/

/-- A step of which the first cycle accepts a word is that cycle's edge. -/
theorem step_eq_edge {s : State} {p : PortCycle} {ps : List PortCycle} (h : s.inputs = p :: ps)
    (hp : p.accepts = true) : step s = edge s := by
  rw [step, h, stepThrough_accept hp, edge_cons h]

/-- An edge that goes on has used up its own cycle of the ports. -/
theorem edge_next_inputs {s t : State} {p : PortCycle} {ps : List PortCycle} (h : s.inputs = p :: ps)
    (he : edge s = .next t) : t.inputs = ps :=
  edgeOn_next_inputs ((edge_cons h).symm.trans he)

theorem runSteps_succ (n : Nat) (s : State) : runSteps (n + 1) s = andThen (step s) (runSteps n) := rfl

/-- Where every cycle accepts a word, steps and edges are the same. -/
theorem runSteps_eq_runEdges (qs : List PortCycle) {ps : List PortCycle} {s : State} (hin : s.inputs = qs ++ ps)
    (hq : ∀ q ∈ qs, q.accepts = true) : runSteps qs.length s = runEdges qs.length s := by
  induction qs generalizing s with
  | nil => rfl
  | cons q qs ih =>
    obtain ⟨hq₀, hqs⟩ := List.forall_mem_cons.mp hq
    rw [List.length_cons, runSteps_succ, runEdges_succ, step_eq_edge hin hq₀]
    exact andThen_congr fun t ht => ih (edge_next_inputs hin ht) hqs

theorem runEdges_present (is : List Instr) {ps : List PortCycle} {s : State} (hm : s.refusalMark = none)
    (hin : s.inputs = is.map PortCycle.present ++ ps) : runEdges is.length s = execAll is (setInputs ps s) := by
  have h := runEdges_eq_execAll _ hm hin (List.forall_mem_map.mpr fun i _ => isOrdinary_present i)
  rwa [List.length_map, filterMap_command_present] at h

theorem runSteps_present (is : List Instr) {ps : List PortCycle} {s : State} (hm : s.refusalMark = none)
    (hin : s.inputs = is.map PortCycle.present ++ ps) : runSteps is.length s = execAll is (setInputs ps s) := by
  have h := runSteps_eq_runEdges _ hin (List.forall_mem_map.mpr fun i _ => accepts_present i)
  rw [List.length_map] at h
  exact h.trans (runEdges_present is hm hin)

/-- Settles O5: by induction on the cycles, each edge being the next command of the stream or an idle edge. -/
theorem edgesTakeEffectInOrder : Obligations.EdgesTakeEffectInOrder := by
  unfold Obligations.EdgesTakeEffectInOrder
  exact ⟨fun _ qs _ hm hin hq => runEdges_eq_execAll qs hm hin hq,
    fun _ is _ hm hin => ⟨runEdges_present is hm hin, runSteps_present is hm hin⟩, by decide, by decide⟩

end Machine
end Sys2Proof

/-! PROOFS of the family 30_encoding.md: how words are numbered and listed (R33, R35, R45), that NOP and INIT ignore
their data (R36), and which cycles execute a command at all (R40). -/

namespace Sys2Proof

/-! ## A word as a number: `op` above `data` -/

theorem encode_toNat (i : Instr) : (encode i).toNat = i.op.toNat * 0x10000 + i.data.toNat := by
  rw [encode, BitVec.toNat_cast, BitVec.toNat_append, ← Nat.shiftLeft_add_eq_or_of_lt i.data.isLt, Nat.shiftLeft_eq]

@[simp] theorem decodeFields_op (op : OpField) (d : CodeUnit) : (decodeFields op d).op = op :=
  match op with
  | 0b00#2 | 0b01#2 | 0b10#2 | 0b11#2 => rfl

@[simp] theorem decodeFields_data (op : OpField) (d : CodeUnit) : (decodeFields op d).data = d :=
  match op with
  | 0b00#2 | 0b01#2 | 0b10#2 | 0b11#2 => rfl

/-- The decoder loses no bit of a word, a reserved one included. -/
theorem encode_decodeWord (w : CmdWord) : encode (decodeWord w) = w := by
  rw [encode, decodeWord, decodeFields_op, decodeFields_data, fields_append]

/-- The `op` of the command that a word is says in which range of 65536 words it lies (30_encoding.md R45). -/
theorem decodeWord_op_toNat_eq_iff (w : CmdWord) (k : Nat) :
    (decodeWord w).op.toNat = k ↔ k * 0x10000 ≤ w.toNat ∧ w.toNat ≤ k * 0x10000 + 0xFFFF := by
  have hw : w.toNat = (decodeWord w).op.toNat * 0x10000 + (decodeWord w).data.toNat := by
    rw [← encode_toNat, encode_decodeWord]
  have hd := (decodeWord w).data.isLt
  omega

/-! ## The four kinds of commands, told apart by `op` alone (30_encoding.md R35) -/

theorem exists_eq_nop_iff (i : Instr) : (∃ d, i = .nop d) ↔ i.op.toNat = 0 := by
  cases i <;> simp [Instr.op]

theorem exists_eq_init_iff (i : Instr) : (∃ d, i = .init d) ↔ i.op.toNat = 1 := by
  cases i <;> simp [Instr.op]

theorem exists_eq_feed_iff (i : Instr) : (∃ c, i = .feed c) ↔ i.op.toNat = 2 := by
  cases i <;> simp [Instr.op]

theorem exists_eq_reserved_iff (i : Instr) : (∃ d, i = .reserved d) ↔ i.op.toNat = 3 := by
  cases i <;> simp [Instr.op]

/-- The words of the four kinds are the four ranges of 30_encoding.md R45. -/
theorem decodeWord_kind_iff_range (w : CmdWord) :
    ((∃ d, decodeWord w = .nop d) ↔ w.toNat ≤ 0x0FFFF) ∧
    ((∃ d, decodeWord w = .init d) ↔ 0x10000 ≤ w.toNat ∧ w.toNat ≤ 0x1FFFF) ∧
    ((∃ c, decodeWord w = .feed c) ↔ 0x20000 ≤ w.toNat ∧ w.toNat ≤ 0x2FFFF) ∧
    ((∃ d, decodeWord w = .reserved d) ↔ 0x30000 ≤ w.toNat ∧ w.toNat ≤ 0x3FFFF) :=
  have range := decodeWord_op_toNat_eq_iff w
  ⟨(exists_eq_nop_iff _).trans ((range 0).trans (and_iff_right (Nat.zero_le _))),
    (exists_eq_init_iff _).trans (range 1), (exists_eq_feed_iff _).trans (range 2),
    (exists_eq_reserved_iff _).trans (range 3)⟩

/-! ## A host word with a bit above 17 set -/

theorem decode_wide {n : Nat} (h : 2 ^ 18 ≤ n) : decode n = .error (.wideHostWord n) := by
  rcases decode_cases n with ⟨hlt, -⟩ | ⟨-, hd⟩
  · exact absurd hlt (not_lt.mpr h)
  · exact hd

theorem two_pow_le_of_testBit_above_17 {n b : Nat} (hb : 17 < b) (hn : n.testBit b = true) : 2 ^ 18 ≤ n :=
  (Nat.pow_le_pow_right (by decide) hb).trans (Nat.ge_two_pow_of_testBit hn)

namespace Machine

theorem acceptWord_wide {n : Nat} (h : 2 ^ 18 ≤ n) (s : State) :
    acceptWord n s = .refused (.wideHostWord s.accepted n) := by
  simp [acceptWord, decode_wide h]

/-- An accepting edge refuses a wide word, by its number and the index the next command would have. -/
theorem edge_wide {s : State} {p : PortCycle} {ps : List PortCycle} (hm : s.refusalMark = none)
    (h : s.inputs = p :: ps) (hp : p.accepts = true) (hw : 2 ^ 18 ≤ p.hostWord) :
    edge s = .refused (.wideHostWord s.accepted p.hostWord) :=
  (edge_cons h).trans ((edgeOn_accept (setInputs_refusalMark ps s ▸ hm) hp).trans (acceptWord_wide hw _))

/-! ## The listing of a word -/

theorem digitValue_hexDigit {d : Nat} (h : d < 16) : digitValue 16 (hexDigit d) = some d := by
  decide +revert

theorem readDigits_cons {base v d : Nat} {c : Char} (h : digitValue base c = some d) (cs : List Char) :
    readDigits base v (c :: cs) = readDigits base (v * base + d) cs := by
  simp [readDigits, h]

/-- Reading back the hexadecimal digits of a list of values goes on from the value read before them. -/
theorem readDigits_hexDigits {ds : List Nat} (h : ∀ d ∈ ds, d < 16) (v : Nat) :
    readDigits 16 v (ds.map hexDigit) = (ds.foldl (fun v d => v * 16 + d) v, []) := by
  induction ds generalizing v with
  | nil => rfl
  | cons d ds ih =>
    obtain ⟨hd, hds⟩ := List.forall_mem_cons.mp h
    rw [List.map_cons, readDigits_cons (digitValue_hexDigit hd), ih hds, List.foldl_cons]

/-- The values of a word's five hexadecimal digits, `op` first (30_encoding.md R45). -/
def wordDigits (w : CmdWord) : List Nat :=
  [w.toNat / 0x10000, w.toNat / 0x1000 % 16, w.toNat / 0x100 % 16, w.toNat / 0x10 % 16, w.toNat % 16]

theorem listing_eq (w : CmdWord) : listing w = '0' :: 'x' :: (wordDigits w).map hexDigit := rfl

theorem wordDigits_lt (w : CmdWord) : ∀ d ∈ wordDigits w, d < 16 := by
  have hw := w.isLt
  simp only [wordDigits, List.forall_mem_cons]
  exact ⟨by omega, by omega, by omega, by omega, by omega, List.forall_mem_nil _⟩

theorem digitsValue_wordDigits (w : CmdWord) : digitsValue 16 (wordDigits w) = w.toNat := by
  simp only [digitsValue, wordDigits, List.foldl_cons, List.foldl_nil]
  omega

theorem readDigits_listing (w : CmdWord) : readDigits 16 0 ((listing w).drop 2) = (w.toNat, []) :=
  (readDigits_hexDigits (wordDigits_lt w) 0).trans (congrArg (·, []) (digitsValue_wordDigits w))

/-- Settles O11: the listing's digits are read back by induction on them, and a word is its `op` times 0x10000 plus its
`data`, so `op` alone says in which of the four ranges it lies. -/
theorem wordsAreNumberedByOpAndData : Obligations.WordsAreNumberedByOpAndData := by
  unfold Obligations.WordsAreNumberedByOpAndData
  refine ⟨fun w => ⟨rfl, rfl, readDigits_listing w⟩, encode_toNat, decodeWord_kind_iff_range, fun n b hb hn => ?_⟩
  have hw := two_pow_le_of_testBit_above_17 hb hn
  refine ⟨decode_wide hw, fun s ps hm hin => ?_⟩
  have he := edge_wide hm hin rfl hw
  exact ⟨_, he, (step_eq_edge hin rfl).trans he⟩

/-! ## The data of NOP and INIT (30_encoding.md R36) -/

theorem exec_nop (d : CodeUnit) (s : State) : exec (.nop d) s = .next s := rfl

theorem exec_init (d : CodeUnit) (s : State) : exec (.init d) s = .next (loadSeed s) := rfl

@[simp] theorem cmdWord_present (i : Instr) : (PortCycle.present i).cmdWord = encode i := by
  simp [PortCycle.cmdWord, PortCycle.present]

/-- While a command is presented `fold_out` shows the fold of its data, whichever command it is (10_state.md R20). -/
theorem foldOut_of_present {s : State} {i : Instr} {ps : List PortCycle} (h : s.inputs = PortCycle.present i :: ps) :
    foldOut s = some (fold i.data) := by
  rw [foldOut_cons h, PortCycle.foldOut, cmdWord_present, dataField_encode]

/-- Settles O9: the meanings of NOP and INIT do not mention the data, and `fold_out` does not look at the opcode. -/
theorem nopAndInitIgnoreData : Obligations.NopAndInitIgnoreData := by
  unfold Obligations.NopAndInitIgnoreData
  refine ⟨fun d e s => ⟨?_, ?_⟩, fun d => ⟨rfl, rfl⟩, rfl, rfl, fun d s ps h => ?_⟩
  · rw [exec_nop, exec_nop]
  · rw [exec_init, exec_init]
  · rcases h with h | h
    · exact foldOut_of_present (i := .nop d) h
    · exact foldOut_of_present (i := .init d) h

/-! ## Cycles that execute no command (30_encoding.md R40) -/

/-- A presented NOP differs from an idle cycle only by being counted (40_control.md R46). -/
theorem edge_nop {s : State} {d : CodeUnit} {ps : List PortCycle} (hm : s.refusalMark = none)
    (h : s.inputs = PortCycle.present (.nop d) :: ps) : edge s = .next (countAccepted (setInputs ps s)) := by
  rw [edge_accept hm h (accepts_present _) (decode_encode _), exec_nop, andThen_next]

/-- A cycle that accepts nothing is a reset cycle or an idle one. -/
theorem accepts_eq_false_cases {p : PortCycle} (h : p.accepts = false) :
    p.rst = true ∨ (p.rst = false ∧ p.cmdValid = false) := by
  cases hr : p.rst with
  | true => exact .inl rfl
  | false => exact .inr ⟨rfl, by simpa [PortCycle.accepts, hr] using h⟩

/-- The word on the port does not matter in a cycle that accepts nothing. -/
theorem edgeOn_hostWord {p : PortCycle} (hp : p.accepts = false) (n : Nat) (s : State) :
    edgeOn { p with hostWord := n } s = edgeOn p s := by
  cases hm : s.refusalMark with
  | some r => rw [edgeOn_marked hm, edgeOn_marked hm]
  | none =>
    rcases accepts_eq_false_cases hp with hr | ⟨hr, hv⟩
    · rw [edgeOn_reset hm hr, edgeOn_reset hm (p := { p with hostWord := n }) hr]
    · rw [edgeOn_idle hm hr hv, edgeOn_idle hm (p := { p with hostWord := n }) hr hv]

/-- Settles O10: each clause is one of the ways an edge can take. -/
theorem idleCycleIsNotDecoded : Obligations.IdleCycleIsNotDecoded := by
  unfold Obligations.IdleCycleIsNotDecoded
  exact ⟨fun _ _ _ hm hin hr hv => edge_idle hm hin hr hv, fun _ _ _ hm hin => edge_nop hm hin,
    fun s _ n hp => edgeOn_hostWord hp n s, fun _ _ _ hm hin hr => edge_reset hm hin hr⟩

end Machine
end Sys2Proof

/-! PROOFS of the family 40_control.md: NOP changes nothing (R46), and INIT loads the seed as `rst` does, but as a
counted command (R47). -/

namespace Sys2Proof

/-- A command is read back from its word's number, however that number is written. -/
theorem decode_of_encode_toNat {i : Instr} {n : Nat} (h : (encode i).toNat = n) : decode n = .ok i :=
  h ▸ decode_encode i

theorem encode_nop_toNat (d : CodeUnit) : (encode (.nop d)).toNat = d.toNat := by
  simp [encode_toNat, Instr.op, Instr.data]

theorem encode_init_toNat (d : CodeUnit) : (encode (.init d)).toNat = 0x10000 + d.toNat := by
  simp [encode_toNat, Instr.op, Instr.data]

namespace Machine

/-- Settles O14: a NOP's word is its data alone, and its edge is an idle edge that counts. -/
theorem nopChangesNothing : Obligations.NopChangesNothing := by
  unfold Obligations.NopChangesNothing
  exact ⟨fun d => ⟨encode_nop_toNat d, decode_of_encode_toNat (encode_nop_toNat d)⟩, exec_nop,
    fun _ _ _ hm hin => ⟨foldOut_of_present (i := .nop _) hin, edge_nop hm hin⟩,
    fun _ _ _ hm hin hr hv => edge_idle hm hin hr hv⟩

theorem loadSeed_loadSeed (s : State) : loadSeed (loadSeed s) = loadSeed s := rfl

/-- Whatever an INIT leaves, another INIT leaves as it is (40_control.md R47). -/
theorem exec_init_idempotent {d : CodeUnit} {s t : State} (h : exec (.init d) s = .next t) (e : CodeUnit) :
    exec (.init e) t = .next t := by
  rw [exec_init] at h
  cases h
  rw [exec_init, loadSeed_loadSeed]

/-- A presented INIT differs from a reset cycle only by being counted (40_control.md R47). -/
theorem edge_init {s : State} {d : CodeUnit} {ps : List PortCycle} (hm : s.refusalMark = none)
    (h : s.inputs = PortCycle.present (.init d) :: ps) :
    edge s = .next (countAccepted (loadSeed (setInputs ps s))) := by
  rw [edge_accept hm h (accepts_present _) (decode_encode _), exec_init, andThen_next]

/-- Settles O15: INIT and `rst` both load the seed, which does not look at what ACC held, and only INIT counts. -/
theorem initLoadsTheSeed : Obligations.InitLoadsTheSeed := by
  unfold Obligations.InitLoadsTheSeed
  exact ⟨fun d => ⟨encode_init_toNat d, decode_of_encode_toNat (encode_init_toNat d)⟩, exec_init,
    fun _ e _ _ h => exec_init_idempotent h e,
    fun d s p ps hm hr => ⟨edge_reset (s := setInputs (p :: ps) s) hm rfl hr,
      edge_init (s := setInputs (PortCycle.present (.init d) :: ps) s) hm rfl⟩⟩

end Machine
end Sys2Proof

/-! PROOFS of the family 41_fold_stage.md: the three integer steps of Fold, each with its equation and its range
(R51). -/

namespace Sys2Proof.Machine

/-! ## Step 2(a) -/

theorem offsetFromA_eq (c : CodeUnit) : offsetFromA c = (c.toNat : Int) - 65 := rfl

theorem offsetFromA_range (c : CodeUnit) : -65 ≤ offsetFromA c ∧ offsetFromA c ≤ 65470 := by
  have hc := c.isLt
  rw [offsetFromA_eq]
  omega

/-! ## Step 2(b) -/

theorem raiseNegative_eq (a : Int) : raiseNegative a = if a < 0 then a + 256 else a := rfl

theorem raiseNegative_of_neg {a : Int} (h : a < 0) : raiseNegative a = a + 256 := by
  rw [raiseNegative_eq, if_pos h]

theorem raiseNegative_of_nonneg {a : Int} (h : 0 ≤ a) : raiseNegative a = a := by
  rw [raiseNegative_eq, if_neg (not_lt.mpr h)]

/-- One raise is enough for every code unit: what step 2(b) leaves is never negative (41_fold_stage.md R51). -/
theorem raiseNegative_offsetFromA_range (c : CodeUnit) :
    0 ≤ raiseNegative (offsetFromA c) ∧ raiseNegative (offsetFromA c) ≤ 65470 := by
  obtain ⟨hlo, hhi⟩ := offsetFromA_range c
  rcases lt_or_ge (offsetFromA c) 0 with hneg | hnonneg
  · rw [raiseNegative_of_neg hneg]
    omega
  · rw [raiseNegative_of_nonneg hnonneg]
    exact ⟨hnonneg, hhi⟩

/-- A raised offset is far above the fold window, so step 2(c) leaves it as it is (41_fold_stage.md R51). -/
theorem raised_offset_range {c : CodeUnit} (h : offsetFromA c < 0) :
    191 ≤ raiseNegative (offsetFromA c) ∧ raiseNegative (offsetFromA c) ≤ 255 := by
  obtain ⟨hlo, -⟩ := offsetFromA_range c
  rw [raiseNegative_of_neg h]
  omega

/-! ## Step 2(c) -/

theorem foldWindow_eq (b : Int) : foldWindow b = if b ≤ 25 then b + 32 else b := rfl

theorem foldWindow_of_le {b : Int} (h : b ≤ 25) : foldWindow b = b + 32 := by
  rw [foldWindow_eq, if_pos h]

theorem foldWindow_of_gt {b : Int} (h : 25 < b) : foldWindow b = b := by
  rw [foldWindow_eq, if_neg (not_le.mpr h)]

theorem foldWindow_inside_range {b : Int} (h0 : 0 ≤ b) (h : b ≤ 25) : 32 ≤ foldWindow b ∧ foldWindow b ≤ 57 := by
  rw [foldWindow_of_le h]
  omega

/-- Step 2(c) empties the values below 26 and keeps the top of the range. -/
theorem foldWindow_range {b : Int} (h0 : 0 ≤ b) (h : b ≤ 65470) : 26 ≤ foldWindow b ∧ foldWindow b ≤ 65470 := by
  rcases le_or_gt b 25 with hin | hout
  · obtain ⟨hlo, hhi⟩ := foldWindow_inside_range h0 hin
    omega
  · rw [foldWindow_of_gt hout]
    omega

/-- Settles O18: the integers named are what the model's three steps leave, so each range is its step's range. -/
theorem foldComputesItsThreeSteps : Obligations.FoldComputesItsThreeSteps := by
  unfold Obligations.FoldComputesItsThreeSteps
  intro c a b r ha hb hr
  rw [← offsetFromA_eq] at ha
  rw [← raiseNegative_eq] at hb
  rw [← foldWindow_eq] at hr
  subst ha hb hr
  obtain ⟨ha_lo, ha_hi⟩ := offsetFromA_range c
  obtain ⟨hb_lo, hb_hi⟩ := raiseNegative_offsetFromA_range c
  obtain ⟨hr_lo, hr_hi⟩ := foldWindow_range hb_lo hb_hi
  exact ⟨ha_lo, ha_hi, raised_offset_range, foldWindow_inside_range hb_lo, hr_lo, hr_hi, fold_toInt_exact c⟩

end Sys2Proof.Machine

/-! PROOFS of the family 42_feed.md: the three sub-steps of Mix (R60), what FEED does with them (R62), and the
string-level hash as their repetition (R63). -/

namespace Sys2Proof.Machine

/-! ## The sub-steps of Mix -/

theorem mixAdd_eq (h : Word) : mixAdd h = (h <<< 5) + h := rfl

theorem mix_eq (h : Word) (f : FoldedOffset) : mix h f = mixAdd h ^^^ f.setWidth 32 := rfl

/-- The shift loses what passes bit 31 (42_feed.md R60). -/
theorem mixShift_toNat (h : Word) : (mixShift h).toNat = (h.toNat * 2 ^ 5) % 2 ^ 32 := by
  rw [mixShift, BitVec.toNat_shiftLeft, Nat.shiftLeft_eq]
  rfl

/-- The addend is the value of ACC before the shift (42_feed.md R60). -/
theorem mixAdd_toNat (h : Word) : (mixAdd h).toNat = ((mixShift h).toNat + h.toNat) % 2 ^ 32 :=
  BitVec.toNat_add _ _

/-- Shift and add together multiply by 33, reduced once (42_feed.md R61). -/
theorem mixAdd_toNat_eq_mul (h : Word) : (mixAdd h).toNat = (h.toNat * 33) % 2 ^ 32 := by
  rw [mixAdd_toNat, mixShift_toNat]
  omega

theorem mix_toNat (h : Word) (f : FoldedOffset) : (mix h f).toNat = (mixAdd h).toNat ^^^ f.toNat := by
  rw [mix_eq, BitVec.toNat_xor, BitVec.toNat_setWidth_of_le (by decide)]

/-- A zero-extended 16-bit value has nothing in its upper half. -/
theorem extractHigh_setWidth (f : FoldedOffset) : (f.setWidth 32).extractLsb' 16 16 = 0#16 := by
  ext j hj
  simp

/-- The XOR never reaches bits 31:16 (42_feed.md R61). -/
theorem mix_high (h : Word) (f : FoldedOffset) : (mix h f).extractLsb' 16 16 = (mixAdd h).extractLsb' 16 16 := by
  rw [mix_eq, BitVec.extractLsb'_xor, extractHigh_setWidth, BitVec.xor_zero]

/-- Settles O23: the integers named are what the model's shift and add leave. -/
theorem mixShiftsAddsAndXors : Obligations.MixShiftsAddsAndXors := by
  unfold Obligations.MixShiftsAddsAndXors
  intro h f s m hs hm
  rw [← mixShift_toNat] at hs
  subst hs
  rw [← mixAdd_toNat] at hm
  subst hm
  exact ⟨mixAdd_toNat_eq_mul h, mix_toNat h f⟩

/-! ## Absorbing one code unit -/

theorem absorb_eq (h : Word) (c : CodeUnit) : absorb h c = mix h (fold c) := rfl

/-- Only the fold of a code unit reaches the accumulator (42_feed.md R66). -/
theorem absorb_congr {c d : CodeUnit} (hf : fold c = fold d) (h : Word) : absorb h c = absorb h d := by
  rw [absorb_eq, absorb_eq, hf]

/-- Shift and add leave zero alone, so what is left is the folded offset (42_feed.md R62). -/
theorem absorb_zero (c : CodeUnit) : absorb 0#32 c = (fold c).setWidth 32 := by
  have hm : mixAdd 0#32 = 0#32 := by decide
  rw [absorb_eq, mix_eq, hm, BitVec.zero_xor]

/-- The range of the folded offset (42_feed.md R60). -/
theorem fold_range (c : CodeUnit) : 26 ≤ (fold c).toNat ∧ (fold c).toNat ≤ 65470 := by
  obtain ⟨hb_lo, hb_hi⟩ := raiseNegative_offsetFromA_range c
  have hr := foldWindow_range hb_lo hb_hi
  rw [← fold_toInt_exact] at hr
  exact_mod_cast hr

/-! ## The command FEED -/

theorem exec_feed (c : CodeUnit) (s : State) : exec (.feed c) s = execFeed c s := rfl

theorem exec_feed_written {s : State} {h : Word} (hs : s.acc = .written h) (c : CodeUnit) :
    exec (.feed c) s = .next (writeAcc (absorb h c) s) := by
  rw [exec_feed, execFeed, readAcc_eq_ok.mpr hs]

theorem exec_feed_unwritten {s : State} (hs : s.acc = .unwritten) (c : CodeUnit) :
    exec (.feed c) s = .fault .readOfUnwrittenAcc := by
  obtain ⟨-, he⟩ | ⟨h, hw, -⟩ := execFeed_cases c s
  · rw [exec_feed, he]
  · exact absurd (hs.symm.trans hw) (by simp)

/-- FEED tells two code units apart only by their folds, whatever ACC holds (42_feed.md R62, R66). -/
theorem exec_feed_congr {c d : CodeUnit} (hf : fold c = fold d) (s : State) : exec (.feed c) s = exec (.feed d) s := by
  cases hs : s.acc with
  | unwritten => rw [exec_feed_unwritten hs, exec_feed_unwritten hs]
  | written h => rw [exec_feed_written hs, exec_feed_written hs, absorb_congr hf]

theorem encode_feed_toNat (c : CodeUnit) : (encode (.feed c)).toNat = 0x20000 + c.toNat := by
  simp [encode_toNat, Instr.op, Instr.data]

/-- Settles O25: FEED absorbs its unit into a written ACC and faults otherwise; the rest are facts of `absorb`, of
the fold's range and of FEED's words, and the corner cases with fixed values. -/
theorem feedFoldsAndAccumulates : Obligations.FeedFoldsAndAccumulates := by
  unfold Obligations.FeedFoldsAndAccumulates
  have fold_letter : fold 0x0041#16 = fold 0x0061#16 := by decide
  have fold_low_high : fold 0x0000#16 = fold 0x0100#16 := by decide
  refine ⟨fun c h s hs => ?written, fun c s hs => exec_feed_unwritten hs c, fun h c => ?absorbs,
    fun c => ?range, fun s => ⟨exec_feed_congr fold_letter s, exec_feed_congr fold_low_high s⟩,
    by decide, by decide, by decide, by decide, by decide, by decide, by decide, by decide, fun c => ?words⟩
  case written =>
    rw [exec_feed_written hs, absorb_eq, mix_eq, mixAdd_eq]
    rfl
  case absorbs =>
    rw [← mixAdd_eq]
    exact ⟨absorb_eq h c, mix_eq h _, mix_high h _⟩
  case range =>
    obtain ⟨hlo, hhi⟩ := fold_range c
    exact ⟨hlo, hhi, absorb_zero c⟩
  case words => exact ⟨encode_feed_toNat c, decode_of_encode_toNat (encode_feed_toNat c)⟩

/-! ## The string-level hash -/

theorem stringHash_nil : stringHash [] = seedWord := rfl

/-- The loop of `H` goes on from what it reached (42_feed.md R65). -/
theorem hashFrom_append (h : Word) (us vs : List CodeUnit) : hashFrom h (us ++ vs) = hashFrom (hashFrom h us) vs :=
  List.foldl_append

theorem stringHash_append (us vs : List CodeUnit) : stringHash (us ++ vs) = hashFrom (stringHash us) vs :=
  hashFrom_append seedWord us vs

theorem hashFrom_singleton (h : Word) (u : CodeUnit) : hashFrom h [u] = absorb h u := rfl

/-- Settles O26: the hash of one more unit is the loop gone on for one round. -/
theorem hashIsBuiltUnitByUnit : Obligations.HashIsBuiltUnitByUnit := by
  unfold Obligations.HashIsBuiltUnitByUnit
  refine ⟨stringHash_nil, fun us u => ?_⟩
  rw [stringHash_append, hashFrom_singleton, absorb_eq]

end Sys2Proof.Machine

/-! PROOFS of the family 60_exceptions.md: `rst` wins over a command in the same cycle (R72). -/

namespace Sys2Proof.Machine

/-- All that a reset edge leaves of the state before it: the mark and the count stay, the cycle is used up, and ACC
holds SEED's value. -/
theorem loadSeed_setInputs_eq (ps : List PortCycle) (s : State) :
    loadSeed (setInputs ps s) = { s with acc := .written 0x00001505#32, inputs := ps } := rfl

/-- Settles O33: an edge looks at `rst` before `cmd_valid` and the word, so it is a reset edge whatever is
presented. -/
theorem resetWinsOverACommand : Obligations.ResetWinsOverACommand := by
  unfold Obligations.ResetWinsOverACommand
  intro s p ps hm hin hr _ _
  rw [edge_reset hm hin hr, loadSeed_setInputs_eq]

end Sys2Proof.Machine

/-! PROOFS of the family 70_reset_and_hazards.md: reset edges (R79, R82), the unwritten ACC of power-up (R80), the
next-state function of every edge (R85), what the outputs show around a FEED's edge (R86), and commands presented back
to back (R87). -/

namespace Sys2Proof.Machine

/-! ## Cycles of the ports, read back as presented commands -/

/-- A word on the port, read as `op` above `data`, is the word of the command that the opcode map gives. -/
theorem op_data_eq_encode_toNat (op : OpField) (d : CodeUnit) :
    op.toNat * 0x10000 + d.toNat = (encode (decodeFields op d)).toNat := by
  rw [encode_toNat, decodeFields_op, decodeFields_data]

theorem encode_toNat_of_decode {n : Nat} {i : Instr} (h : decode n = .ok i) : (encode i).toNat = n := by
  rcases decode_cases n with ⟨hn, hd⟩ | ⟨-, hd⟩
  · cases hd.symm.trans h
    rw [encode_decodeWord, BitVec.toNat_ofNat, Nat.mod_eq_of_lt hn]
  · cases hd.symm.trans h

/-- The ports of a cycle that accepts a command hold nothing but that command. -/
theorem eq_present_of_decode {p : PortCycle} {i : Instr} (hr : p.rst = false) (hv : p.cmdValid = true)
    (hd : decode p.hostWord = .ok i) : p = .present i := by
  obtain ⟨r, v, n⟩ := p
  obtain rfl : r = false := hr
  obtain rfl : v = true := hv
  obtain rfl := encode_toNat_of_decode hd
  rfl

/-- A quiet cycle is idle, or it presents a NOP. -/
theorem PortCycle.isQuiet_cases {p : PortCycle} (h : p.isQuiet = true) :
    (p.rst = false ∧ p.cmdValid = false) ∨ ∃ d, p = .present (.nop d) := by
  obtain ⟨hr, hq⟩ := Bool.and_eq_true_iff.mp h
  rw [Bool.not_eq_true'] at hr
  cases hv : p.cmdValid with
  | false => exact .inl ⟨hr, rfl⟩
  | true =>
    rw [hv] at hq
    cases hd : decode p.hostWord with
    | error e => simp [hd] at hq
    | ok i =>
      cases i with
      | nop d => exact .inr ⟨d, eq_present_of_decode hr hv hd⟩
      | init d => simp [hd] at hq
      | feed c => simp [hd] at hq
      | reserved d => simp [hd] at hq

/-- A cycle that starts a string holds `rst`, or it presents an INIT. -/
theorem PortCycle.startsString_cases {p : PortCycle} (h : p.startsString = true) :
    p.rst = true ∨ ∃ d, p = .present (.init d) := by
  cases hr : p.rst with
  | true => exact .inl rfl
  | false =>
    rw [PortCycle.startsString, hr, Bool.false_or, Bool.and_eq_true_iff] at h
    obtain ⟨hv, hi⟩ := h
    cases hd : decode p.hostWord with
    | error e => simp [hd] at hi
    | ok i =>
      cases i with
      | nop d => simp [hd] at hi
      | init d => exact .inr ⟨d, eq_present_of_decode hr hv hd⟩
      | feed c => simp [hd] at hi
      | reserved d => simp [hd] at hi

/-! ## The edges of the next-state function that are not in the earlier families (R85) -/

theorem edge_feed_written {s : State} {h : Word} {c : CodeUnit} {ps : List PortCycle} (hm : s.refusalMark = none)
    (ha : s.acc = .written h) (hin : s.inputs = PortCycle.present (.feed c) :: ps) :
    edge s = .next (countAccepted (writeAcc (absorb h c) (setInputs ps s))) := by
  rw [edge_accept hm hin (accepts_present _) (decode_encode _), exec_feed_written ((setInputs_acc ps s).trans ha),
    andThen_next]

theorem edge_feed_unwritten {s : State} {c : CodeUnit} {ps : List PortCycle} (hm : s.refusalMark = none)
    (ha : s.acc = .unwritten) (hin : s.inputs = PortCycle.present (.feed c) :: ps) :
    edge s = .fault .readOfUnwrittenAcc := by
  rw [edge_accept hm hin (accepts_present _) (decode_encode _), exec_feed_unwritten ((setInputs_acc ps s).trans ha),
    andThen_fault]

theorem exec_reserved (d : CodeUnit) (s : State) :
    exec (.reserved d) s = .refused (.reservedCommand s.accepted (encode (.reserved d))) := rfl

theorem edge_reserved {s : State} {d : CodeUnit} {ps : List PortCycle} (hm : s.refusalMark = none)
    (hin : s.inputs = PortCycle.present (.reserved d) :: ps) :
    edge s = .refused (.reservedCommand s.accepted (encode (.reserved d))) := by
  rw [edge_accept hm hin (accepts_present _) (decode_encode _), exec_reserved, andThen_refused, setInputs_accepted]

theorem edge_marked {s : State} {r : Refusal} (h : s.refusalMark = some r) : edge s = .refused r := by
  cases hin : s.inputs with
  | nil => rw [edge_nil hin, edgeOn_marked h]
  | cons p ps => rw [edge_cons hin, edgeOn_marked (s := setInputs ps s) h]

/-- Settles O39: a cycle on the ports holds `rst`, or is idle, or presents the command that `op` and `data` make, and
each has its own edge. -/
theorem nextStateFunction : Obligations.NextStateFunction := by
  unfold Obligations.NextStateFunction
  intro s rst valid op data ps hm hin
  have presents : rst = false → valid = true → s.inputs = .present (decodeFields op data) :: ps := by
    rintro rfl rfl
    rw [hin, op_data_eq_encode_toNat]
    rfl
  refine ⟨?foldOut, fun v => hashOut_written, fun hr => ?reset, fun hr hv => edge_idle hm hin hr hv,
    fun hr hv hop => ?nop, fun hr hv hop => ?init, fun h hr hv hop ha => ?feed, fun hr hv hop ha => ?fault,
    fun hr hv hop => ?reserved⟩
  case foldOut => rw [foldOut_cons hin, portFoldOut_eq, ofNat_op_data]
  case reset => rw [edge_reset hm hin hr, loadSeed_setInputs_eq]
  all_goals
    subst hop
    have present := presents hr hv
  case nop => exact edge_nop hm present
  case init => exact edge_init hm present
  case feed => exact edge_feed_written hm ha present
  case fault => exact edge_feed_unwritten hm ha present
  case reserved => exact ⟨_, edge_reserved hm present⟩

/-! ## Reset edges -/

theorem afterEdge_of_refused {s : State} {r : Refusal} (h : edge s = .refused r) : afterEdge s = markRefused r s := by
  rw [afterEdge, h, stateAfter_refused]

/-- Settles O35: a reset edge is the seed loaded, unless the mark has ended the run. -/
theorem resetEdgeLoadsTheSeed : Obligations.ResetEdgeLoadsTheSeed := by
  unfold Obligations.ResetEdgeLoadsTheSeed
  refine ⟨fun s p ps hm hin hr => ?_, fun s p ps r hm _ _ => ?_⟩
  · have shows_seed : hashOut (loadSeed (setInputs ps s)) = .ok seedWord := hashOut_written (loadSeed_acc _)
    exact ⟨_, edge_reset hm hin hr, loadSeed_setInputs_eq ps s, shows_seed, shows_seed⟩
  · rw [afterEdge_of_refused (edge_marked hm), markRefused_refusalMark]

/-- A held `rst` loads the seed at each of its edges, which is to load it once (R82). -/
theorem runEdges_reset {s : State} {p : PortCycle} {rs ps : List PortCycle} (hm : s.refusalMark = none)
    (hin : s.inputs = p :: (rs ++ ps)) (hp : p.rst = true) (hrs : ∀ r ∈ rs, r.rst = true) :
    runEdges (rs.length + 1) s = .next (loadSeed (setInputs ps s)) := by
  induction rs generalizing s p with
  | nil => rw [List.length_nil, runEdges_succ, edge_reset hm hin hp, andThen_next, runEdges_zero, List.nil_append]
  | cons r rs ih =>
    obtain ⟨hr, hrs⟩ := List.forall_mem_cons.mp hrs
    rw [List.length_cons, runEdges_succ, edge_reset hm hin hp, andThen_next]
    exact ih hm rfl hr hrs

/-- Settles O38: by induction on the cycles after the first. -/
theorem heldResetIsOneReset : Obligations.HeldResetIsOneReset := by
  unfold Obligations.HeldResetIsOneReset
  intro s p rs ps hm hin hp hrs
  exact ⟨runEdges_reset hm hin hp hrs, edge_reset (s := setInputs (p :: ps) s) hm rfl hp⟩

/-! ## The unwritten ACC of power-up -/

/-- A cycle that neither writes nor reads ACC leaves it as it is. -/
theorem edge_quiet {s : State} {p : PortCycle} {ps : List PortCycle} (hm : s.refusalMark = none)
    (hin : s.inputs = p :: ps) (hq : p.isQuiet = true) : ∃ t, edge s = .next t ∧ t.acc = s.acc := by
  obtain ⟨hr, hv⟩ | ⟨d, rfl⟩ := p.isQuiet_cases hq
  · exact ⟨_, edge_idle hm hin hr hv, rfl⟩
  · exact ⟨_, edge_nop hm hin, rfl⟩

/-- A cycle that starts a string writes the seed, by `rst` or by an INIT. -/
theorem edge_startsString {s : State} {p : PortCycle} {ps : List PortCycle} (hm : s.refusalMark = none)
    (hin : s.inputs = p :: ps) (hp : p.startsString = true) :
    ∃ t, edge s = .next t ∧ t.acc = .written seedWord := by
  obtain hr | ⟨d, rfl⟩ := p.startsString_cases hp
  · exact ⟨_, edge_reset hm hin hr, rfl⟩
  · exact ⟨_, edge_init hm hin, rfl⟩

/-- Settles O37: only FEED and an observation read ACC, and only `rst` and INIT write it without reading it. -/
theorem unwrittenAccFaultsWhenRead : Obligations.UnwrittenAccFaultsWhenRead := by
  unfold Obligations.UnwrittenAccFaultsWhenRead
  refine ⟨powerUp_acc, fun s ha hm => ⟨hashOut_unwritten ha, fun c ps => ?feed, fun p ps hq => ?quiet,
    fun p ps hp => ?starts⟩⟩
  case feed => exact edge_feed_unwritten (s := setInputs (.present (.feed c) :: ps) s) hm ha rfl
  case quiet =>
    obtain ⟨t, he, ht⟩ := edge_quiet (s := setInputs (p :: ps) s) hm rfl hq
    exact ⟨t, he, ht.trans ha⟩
  case starts => exact edge_startsString (s := setInputs (p :: ps) s) hm rfl hp

/-! ## A FEED and the two outputs -/

/-- Settles O40: before the edge ACC is the hash so far, and the edge absorbs the unit that `fold_out` shows folded. -/
theorem hashOutFollowsAfterTheEdge : Obligations.HashOutFollowsAfterTheEdge := by
  unfold Obligations.HashOutFollowsAfterTheEdge
  intro s us u ps hm ha hin
  refine ⟨hashOut_written ha, foldOut_of_present (i := .feed u) hin, _, edge_feed_written hm ha hin, ?_, rfl, rfl⟩
  rw [stringHash_append, hashFrom_singleton]
  exact hashOut_written rfl

/-! ## Commands presented back to back -/

theorem exec_next_accepted {i : Instr} {s t : State} (h : exec i s = .next t) : t.accepted = s.accepted := by
  rcases exec_next_cases h with ⟨_, _, rfl⟩ | ⟨_, _, rfl⟩ | ⟨_, _, _, _, rfl⟩ <;> rfl

theorem exec_next_inputs {i : Instr} {s t : State} (h : exec i s = .next t) : t.inputs = s.inputs := by
  rcases exec_next_cases h with ⟨_, _, rfl⟩ | ⟨_, _, rfl⟩ | ⟨_, _, _, _, rfl⟩ <;> rfl

/-- A FEED writes ACC only where it was written already, so only an INIT makes it written. -/
theorem exec_next_isWritten_iff {i : Instr} {s t : State} (h : exec i s = .next t) :
    t.acc.isWritten = true ↔ s.acc.isWritten = true ∨ ∃ d, .init d = i := by
  rcases exec_next_cases h with ⟨_, rfl, rfl⟩ | ⟨_, rfl, rfl⟩ | ⟨_, _, rfl, ha, rfl⟩
  · simp
  · simp
  · simp [ha]

/-- What a list of commands that goes on leaves: each is counted, the ports and the mark stay, and ACC is written if it
was or an INIT was among them. -/
theorem execAll_next {is : List Instr} {s t : State} (h : execAll is s = .next t) :
    t.accepted = s.accepted + is.length ∧ t.inputs = s.inputs ∧ t.refusalMark = s.refusalMark ∧
      (t.acc.isWritten = true ↔ s.acc.isWritten = true ∨ ∃ d, .init d ∈ is) := by
  induction is generalizing s with
  | nil =>
    cases h
    simp
  | cons i is ih =>
    rw [execAll_cons, andThen_eq_next] at h
    obtain ⟨m, he, hrest⟩ := h
    obtain ⟨hk, hin, hmark, hacc⟩ := ih hrest
    rw [countAccepted_inputs, exec_next_inputs he] at hin
    rw [countAccepted_refusalMark, exec_next_refusalMark he] at hmark
    refine ⟨?_, hin, hmark, ?_⟩
    · rw [hk, countAccepted_accepted, exec_next_accepted he, List.length_cons]
      omega
    · rw [hacc, countAccepted_acc, exec_next_isWritten_iff he, or_assoc, ← exists_or]
      simp only [List.mem_cons]

/-- No FEED of the list reads an unwritten ACC: ACC holds a value at the start, or an INIT stands before every FEED
(R80, R83). -/
def FeedsFindAccWritten (a : Accumulator) (is : List Instr) : Prop :=
  a.isWritten = true ∨ ∀ pre c post, is = pre ++ .feed c :: post → ∃ d, .init d ∈ pre

theorem FeedsFindAccWritten.take {a : Accumulator} {is : List Instr} (h : FeedsFindAccWritten a is) (n : Nat) :
    FeedsFindAccWritten a (is.take n) := by
  refine h.imp_right fun hinit pre c post htake => hinit pre c (post ++ is.drop n) ?_
  rw [← List.cons_append, ← List.append_assoc, ← htake, List.take_append_drop]

/-- Such a list's first command goes on, unless it is reserved, and the rest is such a list from where it leads. -/
theorem exec_goes_on {i : Instr} {is : List Instr} {s : State} (hi : ∀ d, i ≠ .reserved d)
    (h : FeedsFindAccWritten s.acc (i :: is)) : ∃ t, exec i s = .next t ∧ FeedsFindAccWritten t.acc is := by
  cases i with
  | nop d =>
    refine ⟨s, exec_nop d s, h.imp_right fun hinit pre c post his => ?_⟩
    simpa using hinit (.nop d :: pre) c post (congrArg (.nop d :: ·) his)
  | init d => exact ⟨_, exec_init d s, .inl rfl⟩
  | feed c =>
    obtain hw | hinit := h
    · obtain ⟨v, hv⟩ := (isWritten_iff s.acc).mp hw
      exact ⟨_, exec_feed_written hv c, .inl rfl⟩
    · obtain ⟨d, hd⟩ := hinit [] c is rfl
      exact absurd hd List.not_mem_nil
  | reserved d => exact absurd rfl (hi d)

theorem execAll_goes_on {is : List Instr} {s : State} (hi : ∀ i ∈ is, ∀ d, i ≠ .reserved d)
    (h : FeedsFindAccWritten s.acc is) : ∃ t, execAll is s = .next t := by
  induction is generalizing s with
  | nil => exact ⟨s, rfl⟩
  | cons i is ih =>
    obtain ⟨hi₀, his⟩ := List.forall_mem_cons.mp hi
    obtain ⟨m, he, hm⟩ := exec_goes_on hi₀ h
    rw [execAll_cons, he, andThen_next]
    exact ih (s := countAccepted m) his hm

/-- Settles O41: the first `n` cycles are the first `n` commands run in order, none of which stops the run. -/
theorem backToBackCommandsAreAllAccepted : Obligations.BackToBackCommandsAreAllAccepted := by
  unfold Obligations.BackToBackCommandsAreAllAccepted
  intro s is ps hm hi (hacc : FeedsFindAccWritten s.acc is) hin n hn
  have hlen : (is.take n).length = n := List.length_take_of_le hn
  have hsplit : s.inputs = (is.take n).map PortCycle.present ++ ((is.drop n).map PortCycle.present ++ ps) := by
    rw [← List.append_assoc, ← List.map_append, List.take_append_drop, hin]
  obtain ⟨t, ht⟩ := execAll_goes_on (s := setInputs ((is.drop n).map PortCycle.present ++ ps) s)
    (fun i h => hi i (List.mem_of_mem_take h)) (hacc.take n)
  have hedges := (runEdges_present _ hm hsplit).trans ht
  have hsteps := (runSteps_present _ hm hsplit).trans ht
  obtain ⟨hk, hports, hmark, hwritten⟩ := execAll_next ht
  rw [hlen] at hedges hsteps hk
  exact ⟨t, hedges, hsteps, hk, hports, hmark.trans hm, hwritten⟩

end Sys2Proof.Machine

/-! PROOFS of the family "other", 30_encoding.md: decoding and encoding are inverse, and the opcode map's rows are the
decoder's four cases (R33, R35). -/

namespace Sys2Proof

/-- Settles O6: the two directions of the round trip, for commands and for a host's numbers. -/
theorem decodeAndEncodeAgree : Obligations.DecodeAndEncodeAgree := by
  unfold Obligations.DecodeAndEncodeAgree
  exact ⟨decode_encode, fun _ _ => Machine.encode_toNat_of_decode⟩

/-- Settles O8: each word written by hand is its command's word, which decoding gives back. -/
theorem handWrittenWordsDecode : Obligations.HandWrittenWordsDecode := by
  unfold Obligations.HandWrittenWordsDecode
  exact ⟨decode_of_encode_toNat (by decide), decode_of_encode_toNat (by decide), decode_of_encode_toNat (by decide),
    decode_of_encode_toNat (by decide), decode_of_encode_toNat (by decide), decode_of_encode_toNat (by decide),
    decode_of_encode_toNat (by decide)⟩

/-! ## The rows of the opcode map -/

/-- The row of the commands with the given `op` bits: its mask reads the `op` bits and nothing else (R35). -/
def rowOf (mnemonic : String) (op : OpField) : OpcodeRow :=
  ⟨mnemonic, 0b11#2 ++ 0#16, op ++ 0#16⟩

theorem opcodeRows_eq :
    opcodeRows = [rowOf "NOP" 0b00#2, rowOf "INIT" 0b01#2, rowOf "FEED" 0b10#2, rowOf "(reserved)" 0b11#2] := by
  decide

theorem encode_eq_append (i : Instr) : encode i = i.op ++ i.data := BitVec.cast_eq _ _

theorem rowOf_matches_encode (m : String) (op : OpField) (i : Instr) :
    (rowOf m op).matches (encode i) = (i.op == op) := by
  have hmask : encode i &&& (0b11#2 ++ 0#16) = i.op ++ 0#16 := by
    rw [encode_eq_append, BitVec.and_append, BitVec.and_zero]
    exact congrArg (· ++ 0#16) BitVec.and_allOnes
  rw [Bool.eq_iff_iff, OpcodeRow.matches, rowOf, hmask, beq_iff_eq, beq_iff_eq]
  exact BitVec.append_left_inj (0#16)

theorem rowOf_matches (m : String) (op : OpField) (w : CmdWord) :
    (rowOf m op).matches w = ((decodeWord w).op == op) := by
  rw [← rowOf_matches_encode m op, encode_decodeWord]

/-- The words of a row are one for each value of the data bits. -/
theorem filter_rowOf_matches (m : String) (op : OpField) :
    (Finset.univ.filter fun w : CmdWord => (rowOf m op).matches w = true) =
      Finset.univ.image fun d : CodeUnit => encode (decodeFields op d) := by
  ext w
  simp only [Finset.mem_filter_univ, Finset.mem_image, Finset.mem_univ, true_and, rowOf_matches, beq_iff_eq]
  constructor
  · intro hop
    exact ⟨dataField w, hop ▸ by rw [decodeWord, decodeFields_op]; exact encode_decodeWord w⟩
  · rintro ⟨d, rfl⟩
    rw [decodeWord_encode, decodeFields_op]

theorem encode_decodeFields_injective (op : OpField) :
    Function.Injective fun d : CodeUnit => encode (decodeFields op d) := fun d e h => by
  simpa using congrArg dataField h

theorem card_rowOf_matches (m : String) (op : OpField) :
    (Finset.univ.filter fun w : CmdWord => (rowOf m op).matches w = true).card = 65536 := by
  rw [filter_rowOf_matches, Finset.card_image_of_injective _ (encode_decodeFields_injective op), Finset.card_univ,
    ← FinEnum.card_eq_fintypeCard, FinEnum.card_bitVec]
  norm_num

/-- Settles O7: a row reads the `op` bits of a word, which are those of the decoded command. -/
theorem eachWordMatchesOneOpcodeRow : Obligations.EachWordMatchesOneOpcodeRow := by
  unfold Obligations.EachWordMatchesOneOpcodeRow
  rw [opcodeRows_eq]
  refine ⟨fun w => ?_, ?_⟩
  · simp only [List.filter_cons, List.filter_nil, rowOf_matches]
    cases decodeWord w with
    | nop d => rfl
    | init d => rfl
    | feed c => rfl
    | reserved d => rfl
  · simp only [List.forall_mem_cons, card_rowOf_matches, true_and]
    exact List.forall_mem_nil _

end Sys2Proof

/-! PROOFS of the family "other", 10_state.md and 70_reset_and_hazards.md: what an edge keeps, a step as the edges up to
the next accepting one (R89), and the invariants that every edge, and so every step, keeps. -/

namespace Sys2Proof.Machine

/-! ## One command, one edge -/

/-- Settles O3: of the commands that go on, NOP changes nothing, and INIT and FEED only ACC. -/
theorem commandsChangeNothingButAcc : Obligations.CommandsChangeNothingButAcc := by
  unfold Obligations.CommandsChangeNothingButAcc
  intro i s t h
  refine ⟨exec_next_refusalMark h, exec_next_accepted h, exec_next_inputs h, fun hacc => ?_⟩
  obtain ⟨_, _, rfl⟩ | ⟨d, rfl, _⟩ | ⟨c, _, rfl, _, _⟩ := exec_next_cases h
  · exact absurd rfl hacc
  · exact .inl ⟨d, rfl⟩
  · exact .inr ⟨c, rfl⟩

/-- The state on which a host that has scheduled nothing more drives an idle cycle (log entry 2). -/
theorem edge_no_inputs {s : State} (hm : s.refusalMark = none) (h : s.inputs = []) : edge s = .next s :=
  (edge_nil h).trans (edgeOn_idle hm rfl rfl)

/-- An edge that goes on has found the mark clear and leaves it so. -/
theorem edge_next_refusalMark {s t : State} (h : edge s = .next t) :
    s.refusalMark = none ∧ t.refusalMark = none := by
  have hm : s.refusalMark = none := by
    cases hm : s.refusalMark with
    | none => rfl
    | some r => cases (edge_marked hm).symm.trans h
  refine ⟨hm, ?_⟩
  cases hin : s.inputs with
  | nil =>
    cases (edge_no_inputs hm hin).symm.trans h
    exact hm
  | cons p ps =>
    rw [edge_cons hin] at h
    obtain ⟨_, ⟨_, rfl⟩ | ⟨_, _, rfl⟩ | ⟨_, i, m, _, he, rfl⟩⟩ := edgeOn_next_cases h
    · exact hm
    · exact hm
    · exact (exec_next_refusalMark he).trans hm

/-- What an edge that goes on does to the index and the ports: it uses up one cycle and counts it if it accepts. -/
theorem edge_next_count {s t : State} (h : edge s = .next t) :
    t.accepted = s.accepted + (s.inputs.take 1).countP PortCycle.accepts ∧ t.inputs = s.inputs.drop 1 := by
  obtain ⟨hm, -⟩ := edge_next_refusalMark h
  cases hin : s.inputs with
  | nil =>
    cases (edge_no_inputs hm hin).symm.trans h
    exact ⟨rfl, hin⟩
  | cons p ps =>
    refine ⟨?_, edge_next_inputs hin h⟩
    rw [edge_cons hin] at h
    rw [List.take_succ_cons, List.take_zero, List.countP_singleton]
    obtain ⟨_, ⟨hr, rfl⟩ | ⟨_, hv, rfl⟩ | ⟨hp, i, m, _, he, rfl⟩⟩ := edgeOn_next_cases h
    · simp [PortCycle.accepts, hr]
    · simp [PortCycle.accepts, hv]
    · rw [countAccepted_accepted, exec_next_accepted he, setInputs_accepted, if_pos hp]

/-- Settles O4: by induction on the number of edges, each of which uses up and counts its own cycle. -/
theorem edgesCountAcceptedCommands : Obligations.EdgesCountAcceptedCommands := by
  unfold Obligations.EdgesCountAcceptedCommands
  intro n
  induction n with
  | zero =>
    intro s t h
    cases h
    exact ⟨rfl, rfl⟩
  | succ n ih =>
    intro s t h
    rw [runEdges_succ, andThen_eq_next] at h
    obtain ⟨m, he, hrest⟩ := h
    obtain ⟨hk₁, hin₁⟩ := edge_next_count he
    obtain ⟨hk, hin⟩ := ih m t hrest
    rw [hin₁] at hk hin
    rw [hk, hin, hk₁, Nat.add_assoc, ← List.countP_append, ← List.take_add, List.drop_drop, Nat.add_comm 1 n]
    exact ⟨rfl, rfl⟩

/-! ## A step is a run of edges (70_reset_and_hazards.md R89) -/

theorem step_no_inputs {s : State} (h : s.inputs = []) : step s = edge s := by
  have hs : setInputs [] s = s := h ▸ setInputs_self s
  rw [step, h, stepThrough_nil, hs, edge_nil h]

/-- A cycle that accepts nothing is no step of its own: the step goes on from its edge. -/
theorem step_pass {s : State} {p : PortCycle} {ps : List PortCycle} (h : s.inputs = p :: ps)
    (hp : p.accepts = false) : step s = andThen (edge s) step := by
  rw [step, h, stepThrough_pass hp, edge_cons h]
  refine andThen_congr fun t ht => ?_
  rw [step, show t.inputs = ps from edgeOn_next_inputs ht]

theorem step_marked {s : State} {r : Refusal} (h : s.refusalMark = some r) : step s = .refused r := by
  cases hin : s.inputs with
  | nil => rw [step_no_inputs hin, edge_marked h]
  | cons p ps =>
    cases hp : p.accepts with
    | true => rw [step_eq_edge hin hp, edge_marked h]
    | false => rw [step_pass hin hp, edge_marked h, andThen_refused]

/-- What a step does is told by its last edge, which accepts the first cycle's word or finds no cycle, and by each edge
before it, which accepts nothing. -/
theorem step_next_induction {R : State → State → Prop}
    (hlast : ∀ {s t}, (∀ p ∈ s.inputs.head?, p.accepts = true) → edge s = .next t → R s t)
    (hpass : ∀ {s m t}, (∀ p ∈ s.inputs.head?, p.accepts = false) → edge s = .next m → R m t → R s t)
    {s t : State} (h : step s = .next t) : R s t := by
  induction hn : s.inputs generalizing s with
  | nil => exact hlast (by simp [hn]) (step_no_inputs hn ▸ h)
  | cons p ps ih =>
    cases hp : p.accepts with
    | true => exact hlast (by simp [hn, hp]) (step_eq_edge hn hp ▸ h)
    | false =>
      rw [step_pass hn hp, andThen_eq_next] at h
      obtain ⟨m, he, hrest⟩ := h
      exact hpass (by simp [hn, hp]) he (ih hrest (edge_next_inputs hn he))

/-- A relation between states that every edge meets and that composes is met by every step. -/
theorem step_next_of_edge_next {R : State → State → Prop} (hedge : ∀ {s t}, edge s = .next t → R s t)
    (htrans : ∀ {s m t}, R s m → R m t → R s t) {s t : State} (h : step s = .next t) : R s t :=
  step_next_induction (fun _ => hedge) (fun _ he => htrans (hedge he)) h

/-- States from which every edge goes on to such a state again are states from which every step does. -/
theorem step_goes_on {P : State → Prop} (hedge : ∀ {s}, P s → ∃ t, edge s = .next t ∧ P t) {s : State} (h : P s) :
    ∃ t, step s = .next t ∧ P t := by
  induction hn : s.inputs generalizing s with
  | nil => exact step_no_inputs hn ▸ hedge h
  | cons p ps ih =>
    cases hp : p.accepts with
    | true => exact step_eq_edge hn hp ▸ hedge h
    | false =>
      obtain ⟨m, he, hm⟩ := hedge h
      rw [step_pass hn hp, he, andThen_next]
      exact ih hm (edge_next_inputs hn he)

theorem runSteps_goes_on {P : State → Prop} (hstep : ∀ {s}, P s → ∃ t, step s = .next t ∧ P t) {s : State} (h : P s)
    (n : Nat) : ∃ t, runSteps n s = .next t ∧ P t := by
  induction n generalizing s with
  | zero => exact ⟨s, rfl, h⟩
  | succ n ih =>
    obtain ⟨m, hs, hm⟩ := hstep h
    rw [runSteps_succ, hs, andThen_next]
    exact ih hm

/-! ## The model keeps running -/

/-- No edge makes ACC unwritten: what it writes is a value. -/
theorem edge_keeps_written {s t : State} (h : edge s = .next t) (hw : s.acc.isWritten = true) :
    t.acc.isWritten = true := by
  obtain ⟨hm, -⟩ := edge_next_refusalMark h
  cases hin : s.inputs with
  | nil =>
    cases (edge_no_inputs hm hin).symm.trans h
    exact hw
  | cons p ps =>
    rw [edge_cons hin] at h
    obtain ⟨_, ⟨_, rfl⟩ | ⟨_, _, rfl⟩ | ⟨_, i, m, _, he, rfl⟩⟩ := edgeOn_next_cases h
    · rfl
    · exact hw
    · exact (exec_next_isWritten_iff he).mpr (.inl hw)

/-- Settles O45: an edge that goes on leaves the mark clear and keeps ACC written, and a step is edges. -/
theorem stepKeepsTheModelRunning : Obligations.StepKeepsTheModelRunning := by
  unfold Obligations.StepKeepsTheModelRunning
  intro s t hs h
  refine step_next_of_edge_next (R := fun s t => s.isRunning = true → t.isRunning = true) (fun {s t} he hs => ?_)
    (fun hsm hmt => hmt ∘ hsm) h hs
  simp only [State.isRunning, Bool.and_eq_true, Option.isNone_iff_eq_none] at hs ⊢
  exact ⟨(edge_next_refusalMark he).2, edge_keeps_written he hs.2⟩

/-! ## A host that keeps its duties (R83, R84; 30_encoding.md R37) -/

/-- What the ports can say in one cycle: `rst`, nothing, a command, or a word that is none. -/
theorem PortCycle.port_cases (p : PortCycle) :
    p.rst = true ∨ (p.rst = false ∧ p.cmdValid = false) ∨ (∃ i, p = .present i) ∨
      (p.accepts = true ∧ 2 ^ 18 ≤ p.hostWord) := by
  cases hp : p.accepts with
  | false => exact (accepts_eq_false_cases hp).imp_right .inl
  | true =>
    obtain ⟨hr, hv⟩ : p.rst = false ∧ p.cmdValid = true := by simpa [PortCycle.accepts] using hp
    obtain ⟨-, hd⟩ | ⟨hw, -⟩ := decode_cases p.hostWord
    · exact .inr (.inr (.inl ⟨_, eq_present_of_decode hr hv hd⟩))
    · exact .inr (.inr (.inr ⟨rfl, hw⟩))

@[simp] theorem rst_present (i : Instr) : (PortCycle.present i).rst = false := rfl
@[simp] theorem cmdValid_present (i : Instr) : (PortCycle.present i).cmdValid = true := rfl
@[simp] theorem decode_hostWord_present (i : Instr) : decode (PortCycle.present i).hostWord = .ok i := decode_encode i

@[simp] theorem isLegal_present (i : Instr) : (PortCycle.present i).isLegal = i.wellFormed := by
  simp [PortCycle.isLegal]

/-- A word that is no command is never legal as one (30_encoding.md R45). -/
theorem isLegal_wide {p : PortCycle} (hp : p.accepts = true) (hw : 2 ^ 18 ≤ p.hostWord) : p.isLegal = false := by
  simp [PortCycle.isLegal, hp, decode_wide hw]

@[simp] theorem startsString_present_init (d : CodeUnit) : (PortCycle.present (.init d)).startsString = true := by
  simp [PortCycle.startsString]

theorem startsString_rst {p : PortCycle} (hr : p.rst = true) : p.startsString = true := by
  simp [PortCycle.startsString, hr]

theorem startsString_idle {p : PortCycle} (hr : p.rst = false) (hv : p.cmdValid = false) :
    p.startsString = false := by
  simp [PortCycle.startsString, hr, hv]

/-- The code units of one cycle: those of its command, if it accepts one that is a FEED. -/
theorem fedUnits_singleton_present (i : Instr) :
    fedUnits [.present i] = match i with | .feed c => [c] | _ => [] := by
  cases i <;> simp [fedUnits]

theorem keepsDuties_cons {w : Bool} {p : PortCycle} {ps : List PortCycle} :
    keepsDuties w (p :: ps) = true ↔
      p.isLegal = true ∧ (w = true ∨ fedUnits [p] = []) ∧ keepsDuties (w || p.startsString) ps = true := by
  simp [keepsDuties, and_assoc]

/-- While the duties are kept an edge goes on, and ACC is written after it if it was or the cycle starts a string. -/
theorem edge_of_keepsDuties {s : State} {p : PortCycle} {ps : List PortCycle} (hm : s.refusalMark = none)
    (hin : s.inputs = p :: ps) (hlegal : p.isLegal = true) (hfed : s.acc.isWritten = true ∨ fedUnits [p] = []) :
    ∃ t, edge s = .next t ∧ t.acc.isWritten = (s.acc.isWritten || p.startsString) := by
  obtain hr | ⟨hr, hv⟩ | ⟨i, rfl⟩ | ⟨hp, hw⟩ := p.port_cases
  · exact ⟨_, edge_reset hm hin hr, by simp [startsString_rst hr]⟩
  · exact ⟨_, edge_idle hm hin hr hv, by simp [startsString_idle hr hv]⟩
  · cases i with
    | nop d => exact ⟨_, edge_nop hm hin, by simp [PortCycle.startsString]⟩
    | init d => exact ⟨_, edge_init hm hin, by simp⟩
    | feed c =>
      obtain ⟨v, hv⟩ := (isWritten_iff s.acc).mp (hfed.resolve_right (by simp [fedUnits_singleton_present]))
      exact ⟨_, edge_feed_written hm hv hin, by simp [hv]⟩
    | reserved d => simp [Instr.wellFormed] at hlegal
  · simp [isLegal_wide hp hw] at hlegal

theorem edge_isSafe {s : State} (h : s.isSafe = true) : ∃ t, edge s = .next t ∧ t.isSafe = true := by
  obtain ⟨hm, hduties⟩ := (isSafe_iff s).mp h
  cases hin : s.inputs with
  | nil => exact ⟨s, edge_no_inputs hm hin, h⟩
  | cons p ps =>
    rw [hin, keepsDuties_cons] at hduties
    obtain ⟨hlegal, hfed, hrest⟩ := hduties
    obtain ⟨t, he, hw⟩ := edge_of_keepsDuties hm hin hlegal hfed
    refine ⟨t, he, (isSafe_iff t).mpr ⟨(edge_next_refusalMark he).2, ?_⟩⟩
    rwa [hw, edge_next_inputs hin he]

/-- Settles O46: every edge keeps the duties that are left, and steps and runs of steps are edges. -/
theorem hostThatKeepsItsDutiesIsNeverStopped : Obligations.HostThatKeepsItsDutiesIsNeverStopped := by
  unfold Obligations.HostThatKeepsItsDutiesIsNeverStopped
  have step_isSafe : ∀ {s : State}, s.isSafe = true → ∃ t, step s = .next t ∧ t.isSafe = true :=
    step_goes_on edge_isSafe
  exact fun s h => ⟨edge_isSafe h, step_isSafe h, runSteps_goes_on step_isSafe h⟩

/-- Settles O36: a reset edge at power-up loads the seed, and with nothing scheduled no duty is left to break. -/
theorem resetStateIsThePowerUpStateAfterRst : Obligations.ResetStateIsThePowerUpStateAfterRst := by
  unfold Obligations.ResetStateIsThePowerUpStateAfterRst
  exact ⟨edge_reset (s := setInputs [PortCycle.reset] State.powerUp) rfl rfl rfl, hashOut_written reset_acc,
    reset_accepted, reset_inputs, (isRunning_iff _).mpr ⟨reset_refusalMark, _, reset_acc⟩,
    (isSafe_iff _).mpr ⟨reset_refusalMark, rfl⟩⟩

/-! ## What one step accepts -/

/-- Settles O42: a step of which the first cycle accepts a command is that command's edge. -/
theorem stepRunsTheDecodedCommand : Obligations.StepRunsTheDecodedCommand := by
  unfold Obligations.StepRunsTheDecodedCommand
  intro s p ps i hm hin hr hv hd
  have hp : p.accepts = true := by simp [PortCycle.accepts, hr, hv]
  have hs : step s = andThen (exec i { s with inputs := ps }) (fun t => .next (countAccepted t)) :=
    (step_eq_edge hin hp).trans (edge_accept hm hin hp hd)
  refine ⟨fun t ht => ?_, fun f hf => ?_, fun r hr => ?_⟩
  · rw [hs, ht, andThen_next]
    rfl
  · rw [hs, hf, andThen_fault]
  · rw [hs, hr, andThen_refused]

/-- An edge moves its cycle's command, if it accepts one, from the scheduled to the accepted ones. -/
theorem edge_next_conserves {s t : State} (h : edge s = .next t) :
    t.accepted + t.inputs.countP PortCycle.accepts = s.accepted + s.inputs.countP PortCycle.accepts := by
  obtain ⟨hk, hin⟩ := edge_next_count h
  rw [hk, hin, Nat.add_assoc, ← List.countP_append, List.take_append_drop]

theorem step_next_conserves {s t : State} (h : step s = .next t) :
    t.accepted + t.inputs.countP PortCycle.accepts = s.accepted + s.inputs.countP PortCycle.accepts :=
  step_next_of_edge_next edge_next_conserves (fun hsm hmt => hmt.trans hsm) h

theorem step_next_inputs_suffix {s t : State} (h : step s = .next t) : t.inputs <:+ s.inputs :=
  step_next_of_edge_next
    (fun he => (edge_next_count he).2 ▸ List.drop_suffix _ _) (fun hsm hmt => hmt.trans hsm) h

/-- Only the last edge of a step accepts a word, and it does if any cycle is left that accepts one. -/
theorem step_next_accepted {s t : State} (h : step s = .next t) :
    t.accepted = s.accepted + (if s.inputs.any PortCycle.accepts then 1 else 0) := by
  apply step_next_induction ?last ?pass h
  case last =>
    intro s t hhead he
    rw [(edge_next_count he).1]
    cases hin : s.inputs with
    | nil => rfl
    | cons p ps =>
      have hp : p.accepts = true := hhead p (by rw [hin]; rfl)
      simp [hp]
  case pass =>
    intro s m t hhead he ih
    obtain ⟨hk, hrest⟩ := edge_next_count he
    rw [ih, hk, hrest]
    cases hin : s.inputs with
    | nil => rfl
    | cons p ps =>
      have hp : p.accepts = false := hhead p (by rw [hin]; rfl)
      simp [hp]

/-- Settles O44: each clause is an induction over the edges of the step. -/
theorem stepAcceptsExactlyOneCommand : Obligations.StepAcceptsExactlyOneCommand := by
  unfold Obligations.StepAcceptsExactlyOneCommand
  intro s t h
  obtain ⟨used, hused⟩ := step_next_inputs_suffix h
  exact ⟨step_next_accepted h, step_next_conserves h, used, hused.symm⟩

/-! ## The cycles before the accepting one -/

/-- What the edges of cycles that accept nothing leave: the seed if one of them held `rst`, and the ports at what comes
after them. -/
def afterPassing (pre ps : List PortCycle) (s : State) : State :=
  { s with acc := if pre.any PortCycle.rst then .written seedWord else s.acc, inputs := ps }

theorem afterPassing_nil (s : State) : afterPassing [] s.inputs s = s := rfl

theorem afterPassing_cons (q : PortCycle) (pre qs ps : List PortCycle) (s : State) :
    afterPassing (q :: pre) ps s = afterPassing pre ps (afterPassing [q] qs s) := by
  cases hq : q.rst <;> simp [afterPassing, hq]

theorem edge_passing {s : State} {q : PortCycle} {ps : List PortCycle} (hm : s.refusalMark = none)
    (hin : s.inputs = q :: ps) (hq : q.accepts = false) : edge s = .next (afterPassing [q] ps s) := by
  obtain hr | ⟨hr, hv⟩ := accepts_eq_false_cases hq
  · rw [edge_reset hm hin hr]
    simp [afterPassing, hr, loadSeed, writeAcc, setInputs]
  · rw [edge_idle hm hin hr hv]
    simp [afterPassing, hr, setInputs]

theorem runEdges_passing {pre ps : List PortCycle} {s : State} (hm : s.refusalMark = none) (hin : s.inputs = pre ++ ps)
    (hpre : ∀ q ∈ pre, q.accepts = false) : runEdges pre.length s = .next (afterPassing pre ps s) := by
  induction pre generalizing s with
  | nil =>
    obtain rfl : s.inputs = ps := hin
    rw [afterPassing_nil, List.length_nil, runEdges_zero]
  | cons q pre ih =>
    obtain ⟨hq, hpre⟩ := List.forall_mem_cons.mp hpre
    rw [List.length_cons, runEdges_succ, edge_passing hm hin hq, andThen_next, afterPassing_cons q pre (pre ++ ps)]
    exact ih hm rfl hpre

theorem runEdges_add (m n : Nat) (s : State) : runEdges (m + n) s = andThen (runEdges m s) (runEdges n) := by
  induction m generalizing s with
  | zero => rw [Nat.zero_add, runEdges_zero, andThen_next]
  | succ m ih =>
    rw [Nat.add_right_comm, runEdges_succ, runEdges_succ, andThen_assoc]
    exact andThen_congr fun t _ => ih t

theorem runEdges_one (s : State) : runEdges 1 s = edge s := by
  rw [runEdges_succ]
  cases edge s <;> rfl

/-- A step goes through cycles that accept nothing to what they leave. -/
theorem step_passing {pre ps : List PortCycle} {s : State} (hm : s.refusalMark = none) (hin : s.inputs = pre ++ ps)
    (hpre : ∀ q ∈ pre, q.accepts = false) : step s = step (afterPassing pre ps s) := by
  induction pre generalizing s with
  | nil =>
    obtain rfl : s.inputs = ps := hin
    rw [afterPassing_nil]
  | cons q pre ih =>
    obtain ⟨hq, hpre⟩ := List.forall_mem_cons.mp hpre
    rw [step_pass hin hq, edge_passing hm hin hq, andThen_next, afterPassing_cons q pre (pre ++ ps)]
    exact ih hm rfl hpre

/-- Settles O43: edges and step both come to what the passing cycles leave; from there the step is one edge. -/
theorem stepIsTheEdgesUpToTheNextCommand : Obligations.StepIsTheEdgesUpToTheNextCommand := by
  unfold Obligations.StepIsTheEdgesUpToTheNextCommand
  rintro s pre ps hm hpre m (rfl : m = afterPassing pre ps s)
  refine ⟨fun hin => runEdges_passing hm hin hpre, ?accepting, ?noneLeft⟩
  case accepting =>
    rintro p rest rfl hp hin
    have hs : step s = edge (afterPassing pre (p :: rest) s) :=
      (step_passing hm hin hpre).trans (step_eq_edge rfl hp)
    rw [runEdges_add, runEdges_passing hm hin hpre, andThen_next, runEdges_one]
    exact ⟨hs, hs⟩
  case noneLeft =>
    rintro rfl hin
    rw [← List.append_nil pre] at hin
    exact (step_passing hm hin hpre).trans ((step_no_inputs rfl).trans (edge_no_inputs hm rfl))

end Sys2Proof.Machine

/-! PROOFS of the family "other", 60_exceptions.md section 1: a refusal names the index and the word, and its mark ends
the run for good (R70, R45). -/

namespace Sys2Proof.Machine

/-! ## What a refusal leaves (log entry 4) -/

/-- Once the mark is set it stays, with whatever the ports hold. -/
theorem afterEdges_marked {s : State} {r : Refusal} (h : s.refusalMark = some r) (n : Nat) :
    (afterEdges n s).refusalMark = some r := by
  induction n generalizing s with
  | zero => exact h
  | succ n ih =>
    refine ih ?_
    rw [afterEdge_of_refused (edge_marked h), markRefused_refusalMark]

/-- An edge that refuses sets the mark for good. -/
theorem afterEdges_of_refused {s : State} {r : Refusal} (h : edge s = .refused r) (n : Nat) :
    (afterEdges (n + 1) s).refusalMark = some r :=
  afterEdges_marked (by rw [afterEdge_of_refused h, markRefused_refusalMark]) n

/-- After a refusal ACC has no value to observe. -/
theorem hashOut_afterEdge_of_refused {s : State} {r : Refusal} (h : edge s = .refused r) (v : Word) :
    hashOut (afterEdge s) ≠ .ok v := by
  rw [afterEdge_of_refused h, hashOut_unwritten (markRefused_acc r s)]
  exact nofun

/-! ## The two words that are refused -/

theorem encode_reserved_toNat (d : CodeUnit) : (encode (.reserved d)).toNat = 0x30000 + d.toNat := by
  simp [encode_toNat, Instr.op, Instr.data]

/-- Settles O32: a reserved word on the port is a reserved command presented, whose edge refuses. -/
theorem reservedCommandIsRefusedForGood : Obligations.ReservedCommandIsRefusedForGood := by
  unfold Obligations.ReservedCommandIsRefusedForGood
  refine ⟨fun d s => ⟨_, encode_reserved_toNat d, exec_reserved d s⟩, fun d s p ps hm hin hr hv hw => ?reserved,
    fun s r hm => ⟨edge_marked hm, step_marked hm, fun n ps => afterEdges_marked (s := setInputs ps s) hm n⟩⟩
  case reserved =>
    obtain rfl := eq_present_of_decode hr hv (decode_of_encode_toNat ((encode_reserved_toNat d).trans hw.symm))
    have he := edge_reserved hm hin
    exact ⟨_, rfl, he, (step_eq_edge hin (accepts_present _)).trans he, hashOut_afterEdge_of_refused he,
      afterEdges_of_refused he⟩

/-- Settles O47: a wide word is looked at only in an accepting cycle, and there it is refused uncounted. -/
theorem wideHostWordIsRefusedForGood : Obligations.WideHostWordIsRefusedForGood := by
  unfold Obligations.WideHostWordIsRefusedForGood
  intro s p ps b hm hin hb hbit
  refine ⟨fun hr => ?reset, fun hr hv => edge_idle hm hin hr hv, fun hr hv => ?accepting⟩
  case reset => rw [edge_reset hm hin hr, loadSeed_setInputs_eq]
  case accepting =>
    have hp : p.accepts = true := by simp [PortCycle.accepts, hr, hv]
    have he := edge_wide hm hin hp (two_pow_le_of_testBit_above_17 hb hbit)
    refine ⟨he, (step_eq_edge hin hp).trans he, ?_, hashOut_afterEdge_of_refused he, afterEdges_of_refused he⟩
    rw [afterEdge_of_refused he, markRefused_accepted]
    rfl

end Sys2Proof.Machine

/-! PROOFS of the family "other", 41_fold_stage.md: Fold in closed form, and what follows from it for its collisions,
its preimages and the moduli it does not use (the spec's own inferences at R52 to R57). -/

namespace Sys2Proof.Machine

/-! ## The closed form -/

theorem fold_toNat_low {c : CodeUnit} (h : c.toNat ≤ 64) : (fold c).toNat = c.toNat + 191 := by
  have hf := fold_toInt_exact c
  rw [offsetFromA_eq, raiseNegative_of_neg (by omega), foldWindow_of_gt (by omega)] at hf
  omega

theorem fold_toNat_capital {c : CodeUnit} (hlo : 65 ≤ c.toNat) (hhi : c.toNat ≤ 90) :
    (fold c).toNat + 33 = c.toNat := by
  have hf := fold_toInt_exact c
  rw [offsetFromA_eq, raiseNegative_of_nonneg (by omega), foldWindow_of_le (by omega)] at hf
  omega

theorem fold_toNat_high {c : CodeUnit} (h : 91 ≤ c.toNat) : (fold c).toNat + 65 = c.toNat := by
  have hf := fold_toInt_exact c
  rw [offsetFromA_eq, raiseNegative_of_nonneg (by omega), foldWindow_of_gt (by omega)] at hf
  omega

/-- Settles O19: in each of the three ranges the steps 2(b) and 2(c) either apply or do not. -/
theorem foldHasItsClosedForm : Obligations.FoldHasItsClosedForm := by
  unfold Obligations.FoldHasItsClosedForm
  exact fun c => ⟨fold_toNat_low, fold_toNat_capital, fold_toNat_high, fold_range c⟩

/-- The three ranges of the closed form, each with its equation. -/
theorem fold_toNat_cases (c : CodeUnit) :
    (c.toNat ≤ 64 ∧ (fold c).toNat = c.toNat + 191) ∨
      (65 ≤ c.toNat ∧ c.toNat ≤ 90 ∧ (fold c).toNat + 33 = c.toNat) ∨
      (91 ≤ c.toNat ∧ (fold c).toNat + 65 = c.toNat) := by
  obtain hlow | hlo := le_or_gt c.toNat 64
  · exact .inl ⟨hlow, fold_toNat_low hlow⟩
  · obtain hcap | hhi := le_or_gt c.toNat 90
    · exact .inr (.inl ⟨hlo, hcap, fold_toNat_capital hlo hcap⟩)
    · exact .inr (.inr ⟨hhi, fold_toNat_high hhi⟩)

/-! ## Collisions -/

theorem fold_eq_iff_of_lt {c d : CodeUnit} (hlt : c.toNat < d.toNat) :
    fold c = fold d ↔
      (65 ≤ c.toNat ∧ c.toNat ≤ 90 ∧ d.toNat = c.toNat + 32) ∨ (c.toNat ≤ 64 ∧ d.toNat = c.toNat + 256) := by
  rw [← BitVec.toNat_inj]
  obtain hc | hc | hc := fold_toNat_cases c <;> obtain hd | hd | hd := fold_toNat_cases d <;> omega

/-- Settles O20: two units of the same range differ in their folds as they do themselves, so only units of two ranges
collide. -/
theorem foldCollidesOnlyOnCasePairsAndAliases : Obligations.FoldCollidesOnlyOnCasePairsAndAliases := by
  unfold Obligations.FoldCollidesOnlyOnCasePairsAndAliases
  exact fun _ _ => fold_eq_iff_of_lt

/-! ## No other modulus -/

theorem fold_ne_mod_256_iff (c : CodeUnit) :
    ((fold c).toNat : Int) ≠ foldWindow (((c.toNat : Int) - 65) % 256) ↔ 321 ≤ c.toNat := by
  have hc := c.isLt
  rw [foldWindow_eq]
  obtain hf | hf | hf := fold_toNat_cases c <;> split <;> omega

theorem fold_ne_mod_65536_iff (c : CodeUnit) :
    ((fold c).toNat : Int) ≠ foldWindow (((c.toNat : Int) - 65) % 65536) ↔ c.toNat ≤ 64 := by
  have hc := c.isLt
  rw [foldWindow_eq]
  obtain hf | hf | hf := fold_toNat_cases c <;> split <;> omega

/-- Settles O22: range by range, the closed form against the modulus. -/
theorem foldIsNotAModulus : Obligations.FoldIsNotAModulus := by
  unfold Obligations.FoldIsNotAModulus
  exact fun c => ⟨fold_ne_mod_256_iff c, fold_ne_mod_65536_iff c⟩

/-! ## Preimages -/

/-- The units that fold to the value, as numbers: the closed form read backwards. -/
def foldPreimages (v : Nat) : Finset Nat :=
  if 32 ≤ v ∧ v ≤ 57 then {v + 33, v + 65}
  else if 191 ≤ v ∧ v ≤ 255 then {v - 191, v + 65}
  else if 26 ≤ v ∧ v ≤ 65470 then {v + 65}
  else ∅

theorem fold_eq_iff_mem_foldPreimages (c : CodeUnit) (v : FoldedOffset) :
    fold c = v ↔ c.toNat ∈ foldPreimages v.toNat := by
  have hc := c.isLt
  rw [← BitVec.toNat_inj, foldPreimages]
  obtain hf | hf | hf := fold_toNat_cases c <;> split_ifs <;>
    simp only [Finset.mem_insert, Finset.mem_singleton, Finset.notMem_empty, iff_false] <;> omega

theorem foldPreimages_lt {v n : Nat} (h : n ∈ foldPreimages v) : n < 2 ^ 16 := by
  rw [foldPreimages] at h
  split_ifs at h <;> simp only [Finset.mem_insert, Finset.mem_singleton, Finset.notMem_empty] at h <;> omega

/-- Counting 16-bit values by a property of their numbers is counting the numbers. -/
theorem card_filter_toNat_mem {S : Finset Nat} (hS : ∀ n ∈ S, n < 2 ^ 16) :
    (Finset.univ.filter fun c : BitVec 16 => c.toNat ∈ S).card = S.card := by
  rw [← Finset.card_image_of_injective _ BitVec.toNat_injective]
  congr 1
  ext n
  simp only [Finset.mem_image, Finset.mem_filter_univ]
  refine ⟨fun ⟨c, hc, hn⟩ => hn ▸ hc, fun hn => ⟨BitVec.ofNat 16 n, ?_⟩⟩
  rw [BitVec.toNat_ofNat, Nat.mod_eq_of_lt (hS n hn)]
  exact ⟨hn, rfl⟩

theorem card_fold_eq (v : FoldedOffset) :
    (Finset.univ.filter fun c : CodeUnit => fold c = v).card = (foldPreimages v.toNat).card := by
  simp only [fold_eq_iff_mem_foldPreimages]
  exact card_filter_toNat_mem fun _ => foldPreimages_lt

/-- The folds of the letters and of the low units. -/
def foldDoubles : Finset Nat := Finset.Icc 32 57 ∪ Finset.Icc 191 255

/-- The range of Fold (41_fold_stage.md R52). -/
def foldValues : Finset Nat := Finset.Icc 26 65470

theorem mem_foldDoubles {v : Nat} : v ∈ foldDoubles ↔ (32 ≤ v ∧ v ≤ 57) ∨ (191 ≤ v ∧ v ≤ 255) := by
  simp only [foldDoubles, Finset.mem_union, Finset.mem_Icc]

theorem mem_foldValues {v : Nat} : v ∈ foldValues ↔ 26 ≤ v ∧ v ≤ 65470 := Finset.mem_Icc

theorem foldDoubles_subset : foldDoubles ⊆ foldValues := fun v hv => by
  rw [mem_foldDoubles] at hv
  rw [mem_foldValues]
  omega

theorem card_foldPreimages (v : Nat) :
    (foldPreimages v).card = if v ∈ foldDoubles then 2 else if v ∈ foldValues then 1 else 0 := by
  simp only [foldPreimages, mem_foldDoubles, mem_foldValues]
  by_cases hletter : 32 ≤ v ∧ v ≤ 57
  · rw [if_pos hletter, if_pos (.inl hletter), Finset.card_pair (by omega)]
  · by_cases hlow : 191 ≤ v ∧ v ≤ 255
    · rw [if_neg hletter, if_pos hlow, if_pos (.inr hlow), Finset.card_pair (by omega)]
    · rw [if_neg hletter, if_neg hlow, if_neg (not_or.mpr ⟨hletter, hlow⟩)]
      split_ifs
      · rfl
      · rfl

theorem card_foldPreimages_eq_two_iff (v : Nat) : (foldPreimages v).card = 2 ↔ v ∈ foldDoubles := by
  rw [card_foldPreimages]
  split_ifs <;> simp [*]

theorem card_foldPreimages_eq_one_iff (v : Nat) : (foldPreimages v).card = 1 ↔ v ∈ foldValues \ foldDoubles := by
  rw [card_foldPreimages, Finset.mem_sdiff]
  split_ifs <;> simp [*]

theorem card_foldPreimages_eq_zero_iff (v : Nat) : (foldPreimages v).card = 0 ↔ v ∉ foldValues := by
  rw [card_foldPreimages]
  split_ifs with hdouble hvalue
  · simp [foldDoubles_subset hdouble]
  · simp [hvalue]
  · simp [hvalue]

theorem card_foldPreimages_le_two (v : Nat) : (foldPreimages v).card ≤ 2 := by
  rw [card_foldPreimages]
  split_ifs <;> omega

/-- Settles O21: how many units fold to a value is read off the value, so the values are counted as numbers. -/
theorem foldPreimageCounts : Obligations.FoldPreimageCounts := by
  unfold Obligations.FoldPreimageCounts
  intro pre hpre
  have hcard : ∀ v, pre v = (foldPreimages v.toNat).card := fun v => (hpre v).trans (card_fold_eq v)
  simp only [hcard, card_foldPreimages_eq_two_iff, card_foldPreimages_eq_one_iff, card_foldPreimages_eq_zero_iff]
  have hvalues : ∀ n ∈ foldValues, n < 2 ^ 16 := fun n hn => by
    rw [mem_foldValues] at hn
    omega
  have hdoubles : foldDoubles.card = 91 := by decide
  have hall : foldValues.card = 65445 := Nat.card_Icc 26 65470
  refine ⟨?two, ?one, ?zero, fun v => card_foldPreimages_le_two v.toNat⟩
  case two => rw [card_filter_toNat_mem fun n hn => hvalues n (foldDoubles_subset hn), hdoubles]
  case one =>
    rw [card_filter_toNat_mem fun n hn => hvalues n (Finset.mem_sdiff.mp hn).1,
      Finset.card_sdiff_of_subset foldDoubles_subset, hall, hdoubles]
  case zero =>
    rw [Finset.filter_not, Finset.card_sdiff_of_subset (Finset.filter_subset _ _), card_filter_toNat_mem hvalues, hall,
      Finset.card_univ, ← FinEnum.card_eq_fintypeCard, FinEnum.card_bitVec]
    norm_num

end Sys2Proof.Machine

/-! PROOFS of the family "other", 42_feed.md: Mix as one product and its inverse (R61, R67), and what the hash then sees
of its units (R66, R67). -/

namespace Sys2Proof.Machine

/-! ## Mix as one product -/

/-- Settles O24: the folded offset has no bits above 15, so the XOR leaves the product's upper half alone. -/
theorem mixMultipliesBy33 : Obligations.MixMultipliesBy33 := by
  unfold Obligations.MixMultipliesBy33
  intro h f
  have hmix : (mix h f).toNat = (33 * h.toNat) % 2 ^ 32 ^^^ f.toNat := by
    rw [mix_toNat, mixAdd_toNat_eq_mul, Nat.mul_comm]
  refine ⟨hmix, ?_, ?_⟩
  · rw [hmix, Nat.xor_div_two_pow, Nat.div_eq_of_lt f.isLt, Nat.xor_zero]
  · rw [hmix, Nat.xor_mod_two_pow, Nat.mod_mod_of_dvd _ (by decide), Nat.mod_eq_of_lt f.isLt]

/-! ## The inverse of Mix -/

theorem mixAdd_eq_mul (h : Word) : mixAdd h = 33#32 * h := by
  apply BitVec.eq_of_toNat_eq
  rw [mixAdd_toNat_eq_mul, BitVec.toNat_mul, Nat.mul_comm]
  rfl

/-- 33 is odd, so multiplying by it is undone by multiplying by its inverse modulo 2^32. -/
theorem mixAdd_eq_iff (h m : Word) : mixAdd h = m ↔ h = 0x3E0F83E1#32 * m := by
  have hleft : 0x3E0F83E1#32 * 33#32 = 1#32 := by decide
  have hright : 33#32 * 0x3E0F83E1#32 = 1#32 := by decide
  rw [mixAdd_eq_mul]
  constructor
  · rintro rfl
    rw [← BitVec.mul_assoc, hleft, BitVec.one_mul]
  · rintro rfl
    rw [← BitVec.mul_assoc, hright, BitVec.one_mul]

theorem mix_eq_iff (h r : Word) (f : FoldedOffset) : mix h f = r ↔ h = 0x3E0F83E1#32 * (r ^^^ f.setWidth 32) := by
  rw [mix_eq, ← mixAdd_eq_iff]
  constructor
  · rintro rfl
    rw [BitVec.xor_assoc, BitVec.xor_self, BitVec.xor_zero]
  · intro hm
    rw [hm, BitVec.xor_assoc, BitVec.xor_self, BitVec.xor_zero]

theorem mix_injective_left (f : FoldedOffset) : Function.Injective fun h => mix h f := fun g h hgh =>
  ((mix_eq_iff g _ f).mp hgh).trans ((mix_eq_iff h _ f).mp rfl).symm

theorem mix_injective_right (h : Word) : Function.Injective (mix h) := fun f g hfg => by
  have hnat : (mixAdd h).toNat ^^^ f.toNat = (mixAdd h).toNat ^^^ g.toNat := by
    rw [← mix_toNat, ← mix_toNat]
    exact congrArg BitVec.toNat hfg
  exact BitVec.eq_of_toNat_eq (Nat.xor_right_inj.mp hnat)

/-- Settles O30: 0x3E0F83E1 is the inverse of 33, and XOR with the folded offset undoes itself. -/
theorem mixIsInvertible : Obligations.MixIsInvertible := by
  unfold Obligations.MixIsInvertible
  exact ⟨mix_eq_iff, fun h _ _ hfg => mix_injective_right h hfg⟩

/-! ## The hash and the folds of its units -/

theorem hashFrom_cons (h : Word) (u : CodeUnit) (us : List CodeUnit) :
    hashFrom h (u :: us) = hashFrom (mix h (fold u)) us := rfl

/-- The hash sees its units only through their folds (42_feed.md R66). -/
theorem hashFrom_eq_foldl_mix (h : Word) (us : List CodeUnit) : hashFrom h us = (us.map fold).foldl mix h := by
  rw [List.foldl_map]
  rfl

theorem hashFrom_congr {us vs : List CodeUnit} (hf : us.map fold = vs.map fold) (h : Word) :
    hashFrom h us = hashFrom h vs := by
  rw [hashFrom_eq_foldl_mix, hashFrom_eq_foldl_mix, hf]

/-- Settles O29: case variants and low/high pairs are exactly the units of equal folds. -/
theorem hashIgnoresCaseAndAliases : Obligations.HashIgnoresCaseAndAliases := by
  unfold Obligations.HashIgnoresCaseAndAliases
  refine ⟨fun us vs hf => hashFrom_congr hf seedWord, fun us vs hvariants => hashFrom_congr ?_ seedWord⟩
  rw [← List.forall₂_eq_eq_eq, List.forall₂_map_left_iff, List.forall₂_map_right_iff]
  refine hvariants.imp fun c d hcd => ?_
  obtain rfl | hcase | hcase | halias | halias := hcd
  · rfl
  · exact (fold_eq_iff_of_lt (by omega)).mpr (.inl hcase)
  · exact ((fold_eq_iff_of_lt (by omega)).mpr (.inl hcase)).symm
  · exact (fold_eq_iff_of_lt (by omega)).mpr (.inr halias)
  · exact ((fold_eq_iff_of_lt (by omega)).mpr (.inr halias)).symm

/-- Units fed later never undo a difference: each round is injective in what ACC held. -/
theorem hashFrom_injective (us : List CodeUnit) : Function.Injective fun h => hashFrom h us := by
  induction us with
  | nil => exact Function.injective_id
  | cons u us ih => exact fun g h hgh => mix_injective_left (fold u) (ih hgh)

/-- Settles O31: up to the changed unit both hashes are one value, its fold tells the two apart, and no later unit
undoes that. -/
theorem everySingleUnitChangeIsDetected : Obligations.EverySingleUnitChangeIsDetected := by
  unfold Obligations.EverySingleUnitChangeIsDetected
  intro us vs us' vs' c d hus hvs
  have hstart : stringHash us' = stringHash us := hashFrom_congr hus.symm seedWord
  rw [stringHash_append, stringHash_append, hstart, hashFrom_cons, hashFrom_cons, hashFrom_congr hvs.symm]
  exact (hashFrom_injective vs).eq_iff.trans (mix_injective_right _).eq_iff

end Sys2Proof.Machine

/-! PROOFS of the family "other", 30_encoding.md section 3, 40_control.md, 42_feed.md section 3 and 60_exceptions.md
section 6: a string started by INIT or `rst` and fed in any cycles leaves its hash (R48, R49, R64, R65, R76). -/

namespace Sys2Proof.Machine

/-! ## A stream of cycles that goes on with a string -/

theorem fedUnits_cons (q : PortCycle) (qs : List PortCycle) : fedUnits (q :: qs) = fedUnits [q] ++ fedUnits qs :=
  List.filterMap_append (l := [q])

/-- A cycle that accepts nothing feeds nothing. -/
theorem fedUnits_singleton_of_not_accepts {q : PortCycle} (hq : q.accepts = false) : fedUnits [q] = [] := by
  simp [fedUnits, command_eq_none hq]

/-- A cycle that goes on with a string is idle, or it presents a NOP or a FEED. -/
theorem PortCycle.continuesString_cases {q : PortCycle} (h : q.continuesString = true) :
    (q.rst = false ∧ q.cmdValid = false) ∨ (∃ d, q = .present (.nop d)) ∨ ∃ c, q = .present (.feed c) := by
  obtain hr | hidle | ⟨i, rfl⟩ | ⟨hp, hw⟩ := q.port_cases
  · simp [PortCycle.continuesString, hr] at h
  · exact .inl hidle
  · cases i with
    | nop d => exact .inr (.inl ⟨d, rfl⟩)
    | init d => simp [PortCycle.continuesString] at h
    | feed c => exact .inr (.inr ⟨c, rfl⟩)
    | reserved d => simp [PortCycle.continuesString] at h
  · obtain ⟨hr, hv⟩ : q.rst = false ∧ q.cmdValid = true := by simpa [PortCycle.accepts] using hp
    simp [PortCycle.continuesString, hr, hv, decode_wide hw] at h

/-- A quiet cycle goes on with a string and feeds nothing (40_control.md R48). -/
theorem continuesString_of_isQuiet {q : PortCycle} (h : q.isQuiet = true) :
    q.continuesString = true ∧ fedUnits [q] = [] := by
  obtain ⟨hr, hv⟩ | ⟨d, rfl⟩ := q.isQuiet_cases h
  · exact ⟨by simp [PortCycle.continuesString, hr, hv],
      fedUnits_singleton_of_not_accepts (by simp [PortCycle.accepts, hv])⟩
  · exact ⟨by simp [PortCycle.continuesString], fedUnits_singleton_present _⟩

theorem fedUnits_quiet {qs : List PortCycle} (h : ∀ q ∈ qs, q.isQuiet = true) : fedUnits qs = [] := by
  induction qs with
  | nil => rfl
  | cons q qs ih =>
    obtain ⟨hq, hqs⟩ := List.forall_mem_cons.mp h
    rw [fedUnits_cons, (continuesString_of_isQuiet hq).2, ih hqs, List.nil_append]

/-- The edge of a cycle that goes on with a string absorbs the cycle's units, of which there is at most one. -/
theorem edge_continuesString {s : State} {v : Word} {q : PortCycle} {ps : List PortCycle} (hm : s.refusalMark = none)
    (ha : s.acc = .written v) (hin : s.inputs = q :: ps) (hq : q.continuesString = true) :
    ∃ t, edge s = .next t ∧ t.acc = .written (hashFrom v (fedUnits [q])) := by
  obtain ⟨hr, hv⟩ | ⟨d, rfl⟩ | ⟨c, rfl⟩ := q.continuesString_cases hq
  · refine ⟨_, edge_idle hm hin hr hv, ?_⟩
    rw [fedUnits_singleton_of_not_accepts (by simp [PortCycle.accepts, hv])]
    exact ha
  · refine ⟨_, edge_nop hm hin, ?_⟩
    rw [fedUnits_singleton_present]
    exact ha
  · refine ⟨_, edge_feed_written hm ha hin, ?_⟩
    rw [fedUnits_singleton_present]
    rfl

/-- The edges of such cycles run the loop of `H` over the units that they feed (42_feed.md R65). -/
theorem runEdges_continuesString {s : State} {v : Word} {qs ps : List PortCycle} (hm : s.refusalMark = none)
    (ha : s.acc = .written v) (hin : s.inputs = qs ++ ps) (hqs : ∀ q ∈ qs, q.continuesString = true) :
    ∃ t, runEdges qs.length s = .next t ∧ t.acc = .written (hashFrom v (fedUnits qs)) ∧ t.refusalMark = none ∧
      t.inputs = ps := by
  induction qs generalizing s v with
  | nil => exact ⟨s, rfl, ha, hm, hin⟩
  | cons q qs ih =>
    obtain ⟨hq, hqs⟩ := List.forall_mem_cons.mp hqs
    obtain ⟨m, he, hacc⟩ := edge_continuesString hm ha hin hq
    rw [List.length_cons, runEdges_succ, he, andThen_next, fedUnits_cons, hashFrom_append]
    exact ih (edge_next_refusalMark he).2 hacc (edge_next_inputs hin he) hqs

/-- A cycle that accepts nothing only prepares the next step. -/
theorem runSteps_succ_pass {s : State} {p : PortCycle} {ps : List PortCycle} (h : s.inputs = p :: ps)
    (hp : p.accepts = false) (n : Nat) : runSteps (n + 1) s = andThen (edge s) (runSteps (n + 1)) := by
  rw [runSteps_succ, step_pass h hp, andThen_assoc]
  rfl

/-- As many steps as there are accepting cycles do the same, each command being counted; idle cycles after the last
command are left on the ports. -/
theorem runSteps_continuesString {s : State} {v : Word} {qs ps : List PortCycle} (hm : s.refusalMark = none)
    (ha : s.acc = .written v) (hin : s.inputs = qs ++ ps) (hqs : ∀ q ∈ qs, q.continuesString = true) :
    ∃ t, runSteps (qs.countP PortCycle.accepts) s = .next t ∧ t.acc = .written (hashFrom v (fedUnits qs)) ∧
      t.accepted = s.accepted + qs.countP PortCycle.accepts := by
  induction qs generalizing s v with
  | nil => exact ⟨s, rfl, ha, rfl⟩
  | cons q qs ih =>
    obtain ⟨hq₀, hqs⟩ := List.forall_mem_cons.mp hqs
    obtain ⟨m, he, hacc⟩ := edge_continuesString hm ha hin hq₀
    obtain ⟨t, hrun, hhash, hk⟩ := ih (edge_next_refusalMark he).2 hacc (edge_next_inputs hin he) hqs
    have hm_accepted := (edge_next_count he).1
    rw [hin, List.cons_append, List.take_succ_cons, List.take_zero, List.countP_singleton] at hm_accepted
    rw [fedUnits_cons, hashFrom_append]
    cases hq : q.accepts with
    | true =>
      rw [List.countP_cons_of_pos hq]
      refine ⟨t, ?_, hhash, ?_⟩
      · rw [runSteps_succ, step_eq_edge hin hq, he, andThen_next, hrun]
      · rw [hk, hm_accepted, if_pos hq]
        omega
    | false =>
      have hm_same : m.accepted = s.accepted := by simpa [hq] using hm_accepted
      rw [List.countP_cons_of_neg (by simp [hq])]
      rw [hm_same] at hk
      cases hn : qs.countP PortCycle.accepts with
      | zero =>
        rw [hn] at hrun
        cases hrun
        refine ⟨s, rfl, ?_, rfl⟩
        rw [ha, ← hhash, hacc, fedUnits_singleton_of_not_accepts hq]
        rfl
      | succ n =>
        rw [hn] at hrun hk
        exact ⟨t, by rw [runSteps_succ_pass hin hq, he, andThen_next, hrun], hhash, hk⟩

/-! ## A string from its start -/

/-- A start by INIT or `rst` and then the units, in any cycles, leave the units' hash (42_feed.md R64). -/
theorem runEdges_string {s : State} {p : PortCycle} {qs ps : List PortCycle} (hm : s.refusalMark = none)
    (hin : s.inputs = p :: (qs ++ ps)) (hp : p.startsString = true) (hqs : ∀ q ∈ qs, q.continuesString = true) :
    ∃ t, runEdges (qs.length + 1) s = .next t ∧ hashOut t = .ok (stringHash (fedUnits qs)) ∧ t.refusalMark = none ∧
      t.inputs = ps := by
  obtain ⟨m, he, hacc⟩ := edge_startsString hm hin hp
  obtain ⟨t, hrun, hhash, hmark, hports⟩ :=
    runEdges_continuesString (edge_next_refusalMark he).2 hacc (edge_next_inputs hin he) hqs
  refine ⟨t, ?_, hashOut_written hhash, hmark, hports⟩
  rw [runEdges_succ, he, andThen_next, hrun]

/-- A start by INIT is a step of its own. -/
theorem runSteps_string {s : State} {p : PortCycle} {qs ps : List PortCycle} (hm : s.refusalMark = none)
    (hin : s.inputs = p :: (qs ++ ps)) (hp : p.startsString = true) (hr : p.rst = false)
    (hqs : ∀ q ∈ qs, q.continuesString = true) :
    ∃ t, runSteps (qs.countP PortCycle.accepts + 1) s = .next t ∧ hashOut t = .ok (stringHash (fedUnits qs)) ∧
      t.accepted = s.accepted + qs.countP PortCycle.accepts + 1 := by
  obtain ⟨d, rfl⟩ := (p.startsString_cases hp).resolve_left (by simp [hr])
  have he := edge_init hm hin
  obtain ⟨t, hrun, hhash, hk⟩ := runSteps_continuesString (edge_next_refusalMark he).2 rfl rfl hqs
  refine ⟨t, ?_, hashOut_written hhash, ?_⟩
  · rw [runSteps_succ, step_eq_edge hin (accepts_present _), he, andThen_next, hrun]
  · rw [hk]
    simp only [countAccepted_accepted, loadSeed_accepted, setInputs_accepted]
    omega

/-- Settles O27: the start loads the seed and the cycles after it run the loop of `H`. -/
theorem feedingAStringLeavesItsHash : Obligations.FeedingAStringLeavesItsHash := by
  unfold Obligations.FeedingAStringLeavesItsHash
  exact fun s p qs ps hm hin hp hqs => ⟨runEdges_string hm hin hp hqs, fun hr => runSteps_string hm hin hp hr hqs⟩

/-- Settles O28: the loop of `H` goes on from the hash that ACC holds. -/
theorem feedingGoesOnFromTheHashOfTheFirstPart : Obligations.FeedingGoesOnFromTheHashOfTheFirstPart := by
  unfold Obligations.FeedingGoesOnFromTheHashOfTheFirstPart
  intro s us qs ps hm ha hin hqs
  rw [stringHash_append]
  exact runEdges_continuesString hm ha hin hqs

/-- Settles O16: quiet cycles after an INIT feed nothing, so `hash_out` shows the hash of no units. -/
theorem initWithoutFeedShowsTheSeed : Obligations.InitWithoutFeedShowsTheSeed := by
  unfold Obligations.InitWithoutFeedShowsTheSeed
  intro s d qs ps hm hin hq
  have hrun := runEdges_string hm hin (startsString_present_init d) fun q hmem =>
    (continuesString_of_isQuiet (hq q hmem)).1
  rwa [fedUnits_quiet hq, stringHash_nil] at hrun

/-- Settles O17: both runs end with the hash of the same units. -/
theorem resultDependsOnlyOnUnitsFedSinceStart : Obligations.ResultDependsOnlyOnUnitsFedSinceStart := by
  unfold Obligations.ResultDependsOnlyOnUnitsFedSinceStart
  intro s₁ s₂ p₁ p₂ qs₁ qs₂ rest₁ rest₂ hm₁ hm₂ hin₁ hin₂ hp₁ hp₂ hqs₁ hqs₂ hfed
  obtain ⟨t₁, hrun₁, hout₁, -⟩ := runEdges_string hm₁ hin₁ hp₁ hqs₁
  obtain ⟨t₂, hrun₂, hout₂, -⟩ := runEdges_string hm₂ hin₂ hp₂ hqs₂
  exact ⟨t₁, t₂, _, hrun₁, hrun₂, hout₁, hfed ▸ hout₂⟩

/-! ## Blocks side by side (60_exceptions.md R76) -/

theorem runSchedule_cons (j : Nat) (schedule : List Nat) (sys : List State) :
    runSchedule (j :: schedule) sys = runSchedule schedule (edgeOfInstance j sys) := rfl

theorem length_runSchedule (schedule : List Nat) (sys : List State) :
    (runSchedule schedule sys).length = sys.length := by
  induction schedule generalizing sys with
  | nil => rfl
  | cons i schedule ih => rw [runSchedule_cons, ih, edgeOfInstance, List.length_modify]

/-- Under a schedule block `j` makes the edges that are its own and no other. -/
theorem getElem?_runSchedule {sys : List State} {j : Nat} {s : State} (h : sys[j]? = some s) (schedule : List Nat) :
    (runSchedule schedule sys)[j]? = some (afterEdges (schedule.count j) s) := by
  induction schedule generalizing sys s with
  | nil => exact h
  | cons i schedule ih =>
    rw [runSchedule_cons]
    by_cases hij : i = j
    · subst hij
      rw [List.count_cons_self]
      exact ih (by rw [edgeOfInstance, List.getElem?_modify_eq, h]; rfl)
    · rw [List.count_cons_of_ne hij]
      exact ih (by rw [edgeOfInstance, List.getElem?_modify_ne _ _ hij, h])

/-- Where edges go on, the state held after them is the one they answer. -/
theorem afterEdges_of_runEdges {n : Nat} {s t : State} (h : runEdges n s = .next t) : afterEdges n s = t := by
  induction n generalizing s with
  | zero =>
    cases h
    rfl
  | succ n ih =>
    rw [runEdges_succ, andThen_eq_next] at h
    obtain ⟨m, he, hrest⟩ := h
    rw [afterEdges, afterEdge, he, stateAfter_next, ih hrest]

/-- Settles O34: block `j` is where its own edges lead, so one that is fed a string shows that string's hash. -/
theorem instancesDoNotInteract : Obligations.InstancesDoNotInteract := by
  unfold Obligations.InstancesDoNotInteract
  intro schedule sys j s hj
  have hstate := getElem?_runSchedule hj schedule
  refine ⟨length_runSchedule schedule sys, hstate, fun p qs ps hm hin hp hqs hcount => ?_⟩
  obtain ⟨t, hrun, hout, -⟩ := runEdges_string hm hin hp hqs
  rw [hcount, afterEdges_of_runEdges hrun] at hstate
  exact ⟨t, hstate, hout⟩

/-! ## FEEDS and HASH (30_encoding.md R43, R44) -/

theorem assembleLine_feeds (text : List TextItem) :
    assembleLine (.feeds text) = .ok (((textUnits text).map Instr.feed).map encode) := rfl

theorem assembleLine_hash (text : List TextItem) :
    assembleLine (.hash text) = .ok (encode (.init 0) :: ((textUnits text).map Instr.feed).map encode) := rfl

theorem map_decodeWord_encode (is : List Instr) : (is.map encode).map decodeWord = is := by
  simp [Function.comp_def, decodeWord_encode]

theorem map_present_decodeWord_encode (is : List Instr) :
    (is.map encode).map (fun w => PortCycle.present (decodeWord w)) = is.map PortCycle.present := by
  have hmap := congrArg (List.map PortCycle.present) (map_decodeWord_encode is)
  rwa [List.map_map] at hmap

/-- FEEDs run in order from a written ACC run the loop of `H`. -/
theorem execAll_feeds {s : State} {v : Word} (ha : s.acc = .written v) (us : List CodeUnit) :
    ∃ t, execAll (us.map Instr.feed) s = .next t ∧ t.acc = .written (hashFrom v us) := by
  induction us generalizing s v with
  | nil => exact ⟨s, rfl, ha⟩
  | cons u us ih =>
    rw [List.map_cons, execAll_cons, exec_feed_written ha, andThen_next]
    exact ih (s := countAccepted (writeAcc (absorb v u) s)) rfl

/-- INIT and then the FEEDs of a text leave the text's hash. -/
theorem execAll_init_feeds (d : CodeUnit) (us : List CodeUnit) (s : State) :
    ∃ t, execAll (.init d :: us.map Instr.feed) s = .next t ∧ hashOut t = .ok (stringHash us) := by
  obtain ⟨t, hrun, hacc⟩ := execAll_feeds (s := countAccepted (loadSeed s)) rfl us
  refine ⟨t, ?_, hashOut_written hacc⟩
  rw [execAll_cons, exec_init, andThen_next, hrun]

/-- Settles O13: HASH's words decode to INIT and one FEED for each unit, and the steps of presented commands are those
commands run in order. -/
theorem hashPseudoInstructionHashesItsText : Obligations.HashPseudoInstructionHashesItsText := by
  unfold Obligations.HashPseudoInstructionHashesItsText
  refine ⟨fun text => ⟨_, assembleLine_feeds text, map_decodeWord_encode _, assembleLine_hash text⟩, rfl, rfl,
    fun text ws s ps hws hm hin => ?_⟩
  obtain rfl := Except.ok.inj ((assembleLine_hash text).symm.trans hws)
  rw [← List.map_cons, map_present_decodeWord_encode] at hin
  obtain ⟨t, hrun, hout⟩ := execAll_init_feeds 0 (textUnits text) (setInputs ps s)
  obtain ⟨hk, hports, hmark, -⟩ := execAll_next hrun
  refine ⟨t, ?_, hout, ?_, hmark.trans hm, hports⟩
  · rw [← List.map_cons, List.length_map, runSteps_present _ hm hin, hrun]
  · rw [hk, ← List.map_cons, List.length_map, setInputs_accepted]

end Sys2Proof.Machine

/-! PROOFS of the family "other", 30_encoding.md section 3: how the assembler reads a source text, line by line, and the
parts of a line (R41 to R44; the blanks, the comments and the escapes are log entry 9). -/

namespace Sys2Proof.Machine

/-! ## Blanks, the ends of mnemonics and of lines -/

theorem endsMnemonic_iff (c : Char) : endsMnemonic c = true ↔ c = ' ' ∨ c = '\t' ∨ c = '\r' ∨ c = ';' := by
  simp [endsMnemonic, isBlank, or_assoc]

theorem endsMnemonic_of_isBlank {c : Char} (h : isBlank c = true) : endsMnemonic c = true := by
  simp [endsMnemonic, h]

/-- What ends a mnemonic is no letter. -/
theorem isAlpha_of_endsMnemonic {c : Char} (h : endsMnemonic c = true) : c.isAlpha = false := by
  obtain rfl | rfl | rfl | rfl := (endsMnemonic_iff c).mp h <;> decide

/-- Capital or not, a character ends a mnemonic or does not: only letters change case. -/
theorem endsMnemonic_toUpper (c : Char) : endsMnemonic c.toUpper = endsMnemonic c := by
  cases halpha : c.isAlpha with
  | true =>
    have not_end : ∀ d : Char, d.isAlpha = true → endsMnemonic d = false := fun d hd =>
      Bool.eq_false_iff.mpr fun hend => by simp [isAlpha_of_endsMnemonic hend] at hd
    rw [not_end c halpha, not_end _ ((Char.isAlpha_toUpper_eq_isAlpha c).trans halpha)]
  | false => rw [Char.toUpper_eq_of_not_isLower (by simp_all [Char.isAlpha])]

theorem isBlank_of_mem_gap {gap : List Char} (h : IsGap gap) : ∀ c ∈ gap, isBlank c = true := fun c hc => by
  obtain rfl | rfl := h c hc <;> rfl

theorem dropWhile_gap_append {gap : List Char} (h : IsGap gap) (rest : List Char) :
    (gap ++ rest).dropWhile isBlank = rest.dropWhile isBlank :=
  List.dropWhile_append_of_pos (isBlank_of_mem_gap h)

/-- The first character of what follows the name of a line, if there is one, ends the name. -/
def StartsWithEnd (cs : List Char) : Prop := ∀ c ∈ cs.head?, endsMnemonic c = true

theorem startsWithEnd_gap_append {gap : List Char} (h : IsGap gap) (hne : gap ≠ []) (rest : List Char) :
    StartsWithEnd (gap ++ rest) := by
  cases gap with
  | nil => exact absurd rfl hne
  | cons c cs =>
    rintro d ⟨⟩
    exact endsMnemonic_of_isBlank (isBlank_of_mem_gap h c List.mem_cons_self)

/-- After its blanks a line's end is nothing or a comment. -/
theorem IsLineEnd.dropWhile_cases {tail : List Char} (h : IsLineEnd tail) :
    tail.dropWhile isBlank = [] ∨ ∃ text, tail.dropWhile isBlank = ';' :: text := by
  obtain ⟨gap, rest, hgap, rfl | ⟨text, rfl⟩, rfl⟩ := h
  · exact .inl (dropWhile_gap_append hgap [])
  · exact .inr ⟨text, dropWhile_gap_append hgap _⟩

theorem IsLineEnd.startsWithEnd {tail : List Char} (h : IsLineEnd tail) : StartsWithEnd tail := by
  obtain ⟨gap, rest, hgap, hrest, rfl⟩ := h
  cases gap with
  | cons c cs => exact startsWithEnd_gap_append hgap (List.cons_ne_nil c cs) rest
  | nil =>
    obtain rfl | ⟨text, rfl⟩ := hrest
    · exact nofun
    · rintro d ⟨⟩
      rfl

theorem restIsComment_of_isLineEnd {tail : List Char} (h : IsLineEnd tail) : restIsComment tail = true := by
  obtain hd | ⟨text, hd⟩ := h.dropWhile_cases <;> simp [restIsComment, hd]

theorem restIsComment_dropWhile (cs : List Char) : restIsComment (cs.dropWhile isBlank) = restIsComment cs := by
  rw [restIsComment, List.dropWhile_idempotent]
  rfl

theorem restIsComment_cons {c : Char} (hb : isBlank c = false) (hs : c ≠ ';') (cs : List Char) :
    restIsComment (c :: cs) = false := by
  simp [restIsComment, hb, hs]

theorem restIsComment_gap_append {gap : List Char} (h : IsGap gap) (rest : List Char) :
    restIsComment (gap ++ rest) = restIsComment rest := by
  rw [restIsComment, dropWhile_gap_append h]
  rfl

/-! ## A line: its name and the rest -/

/-- What a line says once its name, in capitals, and the rest after the name are told apart (30_encoding.md R41). -/
def parseNamed (name rest : List Char) : Except AsmError (Option AsmLine) :=
  if name = ['N', 'O', 'P'] then finishLine .nop rest
  else if name = ['I', 'N', 'I', 'T'] then finishLine .init rest
  else if name = ['F', 'E', 'E', 'D'] then parseFeed rest
  else if name = ['F', 'E', 'E', 'D', 'S'] then parseQuoted .feeds rest
  else if name = ['H', 'A', 'S', 'H'] then parseQuoted .hash rest
  else .error .unknownMnemonic

theorem parseLine_lineEnd {line : List Char} (h : IsLineEnd line) : parseLine line = .ok none := by
  simp only [parseLine, restIsComment_dropWhile, restIsComment_of_isLineEnd h, if_true]

theorem takeWhile_of_startsWithEnd {rest : List Char} (h : StartsWithEnd rest) :
    rest.takeWhile (fun c => !endsMnemonic c) = [] := by
  cases rest with
  | nil => rfl
  | cons c cs => exact List.takeWhile_cons_of_neg (by simp [h c rfl])

theorem dropWhile_of_startsWithEnd {rest : List Char} (h : StartsWithEnd rest) :
    rest.dropWhile (fun c => !endsMnemonic c) = rest := by
  cases rest with
  | nil => rfl
  | cons c cs => exact List.dropWhile_cons_of_neg (by simp [h c rfl])

/-- A line with a name is read by its name in capitals. -/
theorem parseLine_named {lead name rest : List Char} (hlead : IsGap lead) (hne : name ≠ [])
    (hname : ∀ c ∈ name, endsMnemonic c = false) (hrest : StartsWithEnd rest) :
    parseLine (lead ++ name ++ rest) = parseNamed (name.map Char.toUpper) rest := by
  have hnot : ∀ c ∈ name, (!endsMnemonic c) = true := fun c hc => by rw [hname c hc]; rfl
  obtain ⟨c, cs, rfl⟩ := List.exists_cons_of_ne_nil hne
  have hc : isBlank c = false ∧ c ≠ ';' := by simpa [endsMnemonic] using hname c List.mem_cons_self
  have hcs : (lead ++ (c :: cs) ++ rest).dropWhile isBlank = (c :: cs) ++ rest := by
    rw [List.append_assoc, dropWhile_gap_append hlead]
    exact List.dropWhile_cons_of_neg (by simp [hc.1])
  simp only [parseLine, hcs, List.takeWhile_append_of_pos hnot, List.dropWhile_append_of_pos hnot,
    takeWhile_of_startsWithEnd hrest, dropWhile_of_startsWithEnd hrest, List.append_nil]
  rw [List.cons_append, restIsComment_cons hc.1 hc.2]
  rfl

theorem parseLine_mnemonic {mnemonic lead name rest : List Char} (hlead : IsGap lead)
    (hmnemonic : IsMnemonic mnemonic name) (hne : mnemonic ≠ []) (hends : mnemonic.any endsMnemonic = false)
    (hrest : StartsWithEnd rest) : parseLine (lead ++ name ++ rest) = parseNamed mnemonic rest := by
  obtain rfl : name.map Char.toUpper = mnemonic := hmnemonic
  refine parseLine_named hlead (fun h => hne (by rw [h]; rfl)) (fun c hc => ?_) hrest
  rw [← endsMnemonic_toUpper]
  exact Bool.eq_false_iff.mpr (List.any_eq_false.mp hends _ (List.mem_map_of_mem hc))

theorem parseNamed_nop (rest : List Char) : parseNamed ['N', 'O', 'P'] rest = finishLine .nop rest := rfl
theorem parseNamed_init (rest : List Char) : parseNamed ['I', 'N', 'I', 'T'] rest = finishLine .init rest := rfl
theorem parseNamed_feed (rest : List Char) : parseNamed ['F', 'E', 'E', 'D'] rest = parseFeed rest := rfl
theorem parseNamed_feeds (rest : List Char) :
    parseNamed ['F', 'E', 'E', 'D', 'S'] rest = parseQuoted .feeds rest := rfl
theorem parseNamed_hash (rest : List Char) : parseNamed ['H', 'A', 'S', 'H'] rest = parseQuoted .hash rest := rfl

theorem finishLine_ok {rest : List Char} (h : restIsComment rest = true) (l : AsmLine) :
    finishLine l rest = .ok (some l) := by
  simp [finishLine, h]

theorem finishLine_trailing {rest : List Char} (h : restIsComment rest = false) (l : AsmLine) :
    finishLine l rest = .error .trailingText := by
  simp [finishLine, h]

/-! ## The words of one line -/

theorem assembleTextLine_some {line : List Char} {l : AsmLine} (h : parseLine line = .ok (some l)) :
    assembleTextLine line = assembleLine l := by
  simp [assembleTextLine, h]

theorem assembleTextLine_none {line : List Char} (h : parseLine line = .ok none) : assembleTextLine line = .ok [] := by
  simp [assembleTextLine, h]

theorem assembleTextLine_error {line : List Char} {e : AsmError} (h : parseLine line = .error e) :
    assembleTextLine line = .error e := by
  simp [assembleTextLine, h]

theorem assembleLine_ok {l : AsmLine} (h : l.wellFormed = true) : assembleLine l = .ok (l.commands.map encode) := by
  simp [assembleLine, h]

theorem assembleLine_feed {n : Nat} (h : n < 65536) :
    ∃ w : CmdWord, w.toNat = 0x20000 + n ∧ assembleLine (.feed n) = .ok [w] := by
  refine ⟨_, ?_, assembleLine_ok (l := .feed n) (decide_eq_true h)⟩
  rw [encode_feed_toNat, BitVec.toNat_ofNat, Nat.mod_eq_of_lt h]

theorem assembleLine_feed_range {n : Nat} (h : 65536 ≤ n) : assembleLine (.feed n) = .error .operandRange := by
  simp [assembleLine, AsmLine.wellFormed, h]

/-- Every word of a line is of a command that is not reserved: the assembler has no form for one (R41). -/
theorem assembleLine_legal {l : AsmLine} {ws : List CmdWord} (h : assembleLine l = .ok ws) :
    ∀ w ∈ ws, (decodeWord w).wellFormed = true := by
  have hcommands : ∀ i ∈ l.commands, i.wellFormed = true := by
    cases l with
    | nop => simp [AsmLine.commands, Instr.wellFormed]
    | init => simp [AsmLine.commands, Instr.wellFormed]
    | feed n => simp [AsmLine.commands, Instr.wellFormed]
    | feeds text => simp [AsmLine.commands, Instr.wellFormed]
    | hash text => simp [AsmLine.commands, Instr.wellFormed]
  cases hl : l.wellFormed with
  | false => simp [assembleLine, hl] at h
  | true =>
    obtain rfl := Except.ok.inj ((assembleLine_ok hl).symm.trans h)
    refine List.forall_mem_map.mpr fun i hi => ?_
    rw [decodeWord_encode]
    exact hcommands i hi

theorem assembleTextLine_legal {line : List Char} {ws : List CmdWord} (h : assembleTextLine line = .ok ws) :
    ∀ w ∈ ws, (decodeWord w).wellFormed = true := by
  cases hp : parseLine line with
  | error e => cases (assembleTextLine_error hp).symm.trans h
  | ok o =>
    cases o with
    | none =>
      cases (assembleTextLine_none hp).symm.trans h
      exact List.forall_mem_nil _
    | some l => exact assembleLine_legal ((assembleTextLine_some hp).symm.trans h)

/-! ## The lines of a source text -/

theorem assembleLines_cons_ok {line : List Char} {ls : List (List Char)} {ws more : List CmdWord}
    (h : assembleTextLine line = .ok ws) (hls : assembleLines ls = .ok more) :
    assembleLines (line :: ls) = .ok (ws ++ more) := by
  simp [assembleLines, h, hls]

theorem assembleLines_cons_rest_error {line : List Char} {ls : List (List Char)} {ws : List CmdWord} {e : AsmError}
    (h : assembleTextLine line = .ok ws) (hls : assembleLines ls = .error e) :
    assembleLines (line :: ls) = .error e := by
  simp [assembleLines, h, hls]

theorem assembleLines_cons_error {line : List Char} {e : AsmError} (h : assembleTextLine line = .error e)
    (ls : List (List Char)) : assembleLines (line :: ls) = .error e := by
  simp [assembleLines, h]

theorem assembleLines_legal {ls : List (List Char)} {ws : List CmdWord} (h : assembleLines ls = .ok ws) :
    ∀ w ∈ ws, (decodeWord w).wellFormed = true := by
  induction ls generalizing ws with
  | nil =>
    cases h
    exact List.forall_mem_nil _
  | cons line ls ih =>
    cases hline : assembleTextLine line with
    | error e => cases (assembleLines_cons_error hline ls).symm.trans h
    | ok first =>
      cases hls : assembleLines ls with
      | error e => cases (assembleLines_cons_rest_error hline hls).symm.trans h
      | ok more =>
        cases (assembleLines_cons_ok hline hls).symm.trans h
        exact List.forall_mem_append.mpr ⟨assembleTextLine_legal hline, ih hls⟩

theorem splitLines_eq_cons (cs : List Char) : ∃ l ls, splitLines cs = l :: ls := by
  cases cs with
  | nil => exact ⟨_, _, rfl⟩
  | cons c cs =>
    rw [splitLines]
    split
    · exact ⟨_, _, rfl⟩
    · split
      · exact ⟨_, _, rfl⟩
      · exact ⟨_, _, rfl⟩

theorem splitLines_newline (cs : List Char) : splitLines ('\n' :: cs) = [] :: splitLines cs := by
  obtain ⟨l, ls, h⟩ := splitLines_eq_cons cs
  simp [splitLines, h]

theorem splitLines_cons {c : Char} (hc : c ≠ '\n') {cs l : List Char} {ls : List (List Char)}
    (h : splitLines cs = l :: ls) : splitLines (c :: cs) = (c :: l) :: ls := by
  simp [splitLines, h, hc]

/-- Characters before a line's end belong to the line. -/
theorem splitLines_append {line : List Char} (hline : '\n' ∉ line) {cs l : List Char} {ls : List (List Char)}
    (h : splitLines cs = l :: ls) : splitLines (line ++ cs) = (line ++ l) :: ls := by
  induction line with
  | nil => exact h
  | cons c line ih =>
    obtain ⟨hc, hrest⟩ := not_or.mp (mt List.mem_cons.mpr hline)
    exact splitLines_cons (Ne.symm hc) (ih hrest)

theorem splitLines_line {line : List Char} (hline : '\n' ∉ line) : splitLines line = [line] := by
  simpa using splitLines_append hline (cs := []) rfl

theorem splitLines_line_newline {line : List Char} (hline : '\n' ∉ line) (src : List Char) :
    splitLines (line ++ '\n' :: src) = line :: splitLines src := by
  simpa using splitLines_append hline (splitLines_newline src)

theorem assemble_line_newline {line : List Char} (hline : '\n' ∉ line) (src : List Char) :
    assemble (line ++ '\n' :: src) = assembleLines (line :: splitLines src) := by
  rw [assemble, splitLines_line_newline hline]

theorem assemble_line {line : List Char} (hline : '\n' ∉ line) : assemble line = assembleTextLine line := by
  rw [assemble, splitLines_line hline]
  cases h : assembleTextLine line with
  | error e => exact assembleLines_cons_error h []
  | ok ws => exact (assembleLines_cons_ok h rfl).trans (by rw [List.append_nil])

/-- Settles O50: the line feed after the first line splits the text, and the words of the two parts are put together. -/
theorem assemblerReadsLineByLine : Obligations.AssemblerReadsLineByLine := by
  unfold Obligations.AssemblerReadsLineByLine
  refine ⟨fun line h => assembleTextLine_none (parseLine_lineEnd h),
    fun line hline => ⟨assemble_line hline, fun src => ?_⟩⟩
  rw [assemble_line_newline hline]
  exact ⟨fun ws more => assembleLines_cons_ok, fun e he => assembleLines_cons_error he _,
    fun ws e => assembleLines_cons_rest_error⟩

/-! ## Number operands and character literals (R42) -/

theorem digitValue_of_isDecimalDigit {d : Nat} {c : Char} (h : IsDecimalDigit d c) : digitValue 10 c = some d := by
  obtain ⟨hd, rfl⟩ := List.getElem?_eq_some_iff.mp h
  clear h
  decide +revert

theorem digitValue_of_isHexDigit {d : Nat} {c : Char} (h : IsHexDigit d c) : digitValue 16 c = some d := by
  obtain h | h := h
  · obtain ⟨hd, rfl⟩ := List.getElem?_eq_some_iff.mp h
    clear h
    decide +revert
  · obtain ⟨hd, rfl⟩ := List.getElem?_eq_some_iff.mp h
    clear h
    decide +revert

theorem digitValue_of_endsMnemonic {c : Char} (h : endsMnemonic c = true) :
    digitValue 10 c = none ∧ digitValue 16 c = none := by
  obtain rfl | rfl | rfl | rfl := (endsMnemonic_iff c).mp h <;> decide

/-- Digits are read up to the first character that is none. -/
theorem readDigits_append {base : Nat} {ds : List Nat} {cs rest : List Char}
    (hcs : List.Forall₂ (fun d c => digitValue base c = some d) ds cs)
    (hrest : ∀ c ∈ rest.head?, digitValue base c = none) (v : Nat) : readDigits base v (cs ++ rest) = (ds.foldl (fun v d => v * base + d) v, rest) := by
  induction hcs generalizing v with
  | nil =>
    cases rest with
    | nil => rfl
    | cons c cs => simp [readDigits, hrest c rfl]
  | cons hd _ ih => rw [List.cons_append, readDigits_cons hd, ih, List.foldl_cons]

theorem parseOperand_hex {c : Char} (hc : (digitValue 16 c).isSome = true) (cs : List Char) :
    parseOperand ('0' :: 'x' :: c :: cs) = some (readDigits 16 0 (c :: cs)) := by
  simp [parseOperand, hc]

theorem parseOperand_decimal {c : Char} (hc : (digitValue 10 c).isSome = true) {cs : List Char}
    (hx : cs.head? ≠ some 'x') : parseOperand (c :: cs) = some (readDigits 10 0 (c :: cs)) := by
  have hquote : c ≠ '\'' := by
    rintro rfl
    exact absurd hc (by decide)
  rw [parseOperand, if_pos hc]
  case x_1 => exact fun _ h => absurd h hquote
  case x_2 => exact fun _ _ h => absurd h hquote
  case x_3 =>
    rintro d ds - rfl
    exact hx rfl

theorem parseOperand_literal (c : Char) (rest : List Char) :
    parseOperand ('\'' :: c :: '\'' :: rest) = if c.toNat < 0x10000 then some (c.toNat, rest) else none := by
  simp [parseOperand]

theorem parseOperand_zero_literal (rest : List Char) :
    parseOperand ('\'' :: '\\' :: '0' :: '\'' :: rest) = some (0, rest) := rfl

theorem parseOperand_writesNumber {operand tail : List Char} {n : Nat} (h : WritesNumber operand n)
    (htail : StartsWithEnd tail) : parseOperand (operand ++ tail) = some (n, tail) := by
  obtain ⟨ds, hne, hds, rfl⟩ | ⟨ds, hs, hne, hds, rfl, rfl⟩ := h
  · have hread := readDigits_append (hds.imp fun _ _ => digitValue_of_isDecimalDigit)
      (fun c hc => (digitValue_of_endsMnemonic (htail c hc)).1) 0
    cases hds with
    | nil => exact absurd rfl hne
    | @cons d c ds cs hd hds =>
      have hx : (cs ++ tail).head? ≠ some 'x' := by
        intro hx
        cases hds with
        | nil => exact absurd (htail 'x' hx) (by decide)
        | cons he _ =>
          obtain rfl := Option.some.inj hx
          exact absurd (digitValue_of_isDecimalDigit he) (by simp [show digitValue 10 'x' = none by decide])
      rw [List.cons_append] at hread ⊢
      rw [parseOperand_decimal (by simp [digitValue_of_isDecimalDigit hd]) hx, hread]
      rfl
  · have hread := readDigits_append (hds.imp fun _ _ => digitValue_of_isHexDigit)
      (fun c hc => (digitValue_of_endsMnemonic (htail c hc)).2) 0
    cases hds with
    | nil => exact absurd rfl hne
    | cons hd hds =>
      rw [List.cons_append] at hread
      rw [List.cons_append, List.cons_append, List.cons_append,
        parseOperand_hex (by simp [digitValue_of_isHexDigit hd]), hread]
      rfl

theorem parseOperand_writesOperand {operand tail : List Char} {n : Nat} (h : WritesOperand operand n)
    (htail : StartsWithEnd tail) : parseOperand (operand ++ tail) = some (n, tail) := by
  obtain hnumber | ⟨c, hc, rfl, rfl⟩ | ⟨rfl, rfl⟩ := h
  · exact parseOperand_writesNumber hnumber htail
  · exact (parseOperand_literal c tail).trans (if_pos hc)
  · exact parseOperand_zero_literal tail

theorem isBlank_of_isDecimalDigit {d : Nat} {c : Char} (h : IsDecimalDigit d c) : isBlank c = false :=
  Bool.eq_false_iff.mpr fun hb => by
    have hnone := (digitValue_of_endsMnemonic (endsMnemonic_of_isBlank hb)).1
    simp [digitValue_of_isDecimalDigit h] at hnone

/-- An operand starts with a digit or a quote, so the blanks before it end there. -/
theorem dropWhile_writesOperand {operand : List Char} {n : Nat} (h : WritesOperand operand n) (tail : List Char) :
    (operand ++ tail).dropWhile isBlank = operand ++ tail := by
  obtain (⟨ds, hne, hds, -⟩ | ⟨ds, hs, -, -, rfl, -⟩) | ⟨c, -, rfl, -⟩ | ⟨rfl, -⟩ := h
  · cases hds with
    | nil => exact absurd rfl hne
    | cons hd _ => exact List.dropWhile_cons_of_neg (by simp [isBlank_of_isDecimalDigit hd])
  · rfl
  · rfl
  · rfl

/-! ## FEED lines -/

theorem parseFeed_operand {gap operand tail : List Char} {n : Nat} (hgap : IsGap gap) (h : WritesOperand operand n)
    (htail : IsLineEnd tail) : parseFeed (gap ++ (operand ++ tail)) = .ok (some (.feed n)) := by
  rw [parseFeed, dropWhile_gap_append hgap, dropWhile_writesOperand h, parseOperand_writesOperand h htail.startsWithEnd]
  exact finishLine_ok (restIsComment_of_isLineEnd htail) _

/-- A character of two code units is no operand (30_encoding.md R42). -/
theorem parseFeed_wide_literal {gap : List Char} (hgap : IsGap gap) {c : Char} (hc : 0x10000 ≤ c.toNat)
    (cs : List Char) : parseFeed (gap ++ '\'' :: c :: '\'' :: cs) = .error .badOperand := by
  have hquote : ('\'' :: c :: '\'' :: cs).dropWhile isBlank = '\'' :: c :: '\'' :: cs := rfl
  rw [parseFeed, dropWhile_gap_append hgap, hquote, parseOperand_literal, if_neg (not_lt.mpr hc)]

theorem parseFeed_lineEnd {tail : List Char} (h : IsLineEnd tail) : parseFeed tail = .error .badOperand := by
  obtain hd | ⟨text, hd⟩ := h.dropWhile_cases
  · rw [parseFeed, hd]
    rfl
  · have hnone : parseOperand (';' :: text) = none := by simp [parseOperand, show digitValue 10 ';' = none by decide]
    rw [parseFeed, hd, hnone]

/-- Settles O12: a line is read by its name in capitals, and no line stands for a reserved command. -/
theorem assemblerEmitsOnlyLegalWords : Obligations.AssemblerEmitsOnlyLegalWords := by
  unfold Obligations.AssemblerEmitsOnlyLegalWords
  have hempty : IsGap [] := fun _ hc => absurd hc List.not_mem_nil
  have hend : IsLineEnd [] := ⟨[], [], hempty, .inl rfl, rfl⟩
  refine ⟨fun n hn => ?feed, fun n => assembleLine_feed_range, fun name rest hname hrest => ?upper, fun cs => ?comment,
    ?noOperand, fun src ws => assembleLines_legal⟩
  case feed =>
    obtain ⟨w, hw, hline⟩ := assembleLine_feed hn
    exact ⟨w, hline, hw⟩
  case upper =>
    by_cases hne : name = []
    · rw [hne, List.map_nil]
    · have hupper : ∀ c ∈ name.map Char.toUpper, endsMnemonic c = false :=
        List.forall_mem_map.mpr fun c hc => (endsMnemonic_toUpper c).trans (hname c hc)
      have hread := parseLine_named hempty (by simpa using hne) hupper hrest
      rw [List.map_map, show Char.toUpper ∘ Char.toUpper = Char.toUpper from funext Char.toUpper_toUpper_eq_toUpper]
        at hread
      exact hread.trans (parseLine_named hempty hne hname hrest).symm
  case comment => exact parseLine_lineEnd ⟨[], ';' :: cs, hempty, .inr ⟨cs, rfl⟩, rfl⟩
  case noOperand =>
    have hname : IsMnemonic ['F', 'E', 'E', 'D'] ['F', 'E', 'E', 'D'] := rfl
    exact (parseLine_mnemonic hempty hname (by decide) rfl hend.startsWithEnd).trans (parseFeed_lineEnd hend)

/-- A line of a command without operand: the command alone, and the refusal of any other text after it. -/
theorem assembleTextLine_noOperand {mnemonic lead name gap : List Char} {l : AsmLine} {w : CmdWord}
    (hnamed : ∀ rest, parseNamed mnemonic rest = finishLine l rest) (hword : assembleLine l = .ok [w])
    (hne : mnemonic ≠ []) (hends : mnemonic.any endsMnemonic = false) (hlead : IsGap lead) (hgap : IsGap gap)
    (hgap_ne : gap ≠ []) (hname : IsMnemonic mnemonic name) :
    (∀ tail, IsLineEnd tail → assembleTextLine (lead ++ name ++ tail) = .ok [w]) ∧
      (∀ c cs, isBlank c = false → c ≠ ';' →
        assembleTextLine (lead ++ name ++ gap ++ c :: cs) = .error .trailingText) := by
  have hparse : ∀ rest, StartsWithEnd rest → parseLine (lead ++ name ++ rest) = finishLine l rest := fun rest hrest =>
    (parseLine_mnemonic hlead hname hne hends hrest).trans (hnamed rest)
  refine ⟨fun tail htail => ?_, fun c cs hb hs => ?_⟩
  · refine (assembleTextLine_some ?_).trans hword
    rw [hparse tail htail.startsWithEnd, finishLine_ok (restIsComment_of_isLineEnd htail)]
  · rw [List.append_assoc (lead ++ name)]
    refine assembleTextLine_error ?_
    rw [hparse _ (startsWithEnd_gap_append hgap hgap_ne _), finishLine_trailing]
    rw [restIsComment_gap_append hgap, restIsComment_cons hb hs]

/-- A FEED line is read by what follows its name. -/
theorem parseLine_feed {lead name rest : List Char} (hlead : IsGap lead) (hname : IsMnemonic ['F', 'E', 'E', 'D'] name)
    (hrest : StartsWithEnd rest) : parseLine (lead ++ name ++ rest) = parseFeed rest :=
  parseLine_mnemonic hlead hname (by decide) rfl hrest

/-- Settles O48: NOP and INIT take no operand; FEED takes one that its form reads back as the number it stands for. -/
theorem assemblerTakesEveryCommandForm : Obligations.AssemblerTakesEveryCommandForm := by
  unfold Obligations.AssemblerTakesEveryCommandForm
  intro lead name gap hlead hgap hne
  have hgap_rest := startsWithEnd_gap_append hgap hne
  refine ⟨assembleTextLine_noOperand parseNamed_nop rfl (by decide) rfl hlead hgap hne,
    assembleTextLine_noOperand parseNamed_init rfl (by decide) rfl hlead hgap hne,
    fun hname => ⟨fun operand tail n hoperand htail => ?operand, fun c cs hc => ?wide, fun tail htail => ?missing⟩⟩
  case operand =>
    have hline : assembleTextLine (lead ++ name ++ gap ++ operand ++ tail) = assembleLine (.feed n) := by
      rw [List.append_assoc, List.append_assoc (lead ++ name)]
      refine assembleTextLine_some ?_
      rw [parseLine_feed hlead hname (hgap_rest _), parseFeed_operand hgap hoperand htail]
    rw [hline]
    exact ⟨assembleLine_feed, assembleLine_feed_range⟩
  case wide =>
    rw [List.append_assoc (lead ++ name)]
    refine assembleTextLine_error ?_
    rw [parseLine_feed hlead hname (hgap_rest _), parseFeed_wide_literal hgap hc]
  case missing =>
    refine assembleTextLine_error ?_
    rw [parseLine_feed hlead hname htail.startsWithEnd, parseFeed_lineEnd htail]

/-! ## Quoted texts (R43) -/

theorem hexUnit_eq {x y z w : Nat} {a b c d : Char} (ha : IsHexDigit x a) (hb : IsHexDigit y b) (hc : IsHexDigit z c)
    (hd : IsHexDigit w d) : hexUnit a b c d = some (BitVec.ofNat 16 (digitsValue 16 [x, y, z, w])) := by
  simp [hexUnit, digitValue_of_isHexDigit ha, digitValue_of_isHexDigit hb, digitValue_of_isHexDigit hc,
    digitValue_of_isHexDigit hd, digitsValue]

/-- The characters that write an item are read as that item. -/
theorem parseText_item {item : TextItem} {piece : List Char} (h : WritesItem item piece) (rest : List Char) :
    parseText (piece ++ rest) = consItem item (parseText rest) := by
  obtain ⟨c, hquote, hslash, rfl, rfl⟩ | ⟨rfl, rfl⟩ | ⟨rfl, rfl⟩ | ⟨rfl, rfl⟩ |
    ⟨x, y, z, w, a, b, c, d, ha, hb, hc, hd, rfl, rfl⟩ := h
  · rw [List.singleton_append, parseText] <;> simp [hquote, hslash]
  · simp [parseText]
  · simp [parseText]
  · simp [parseText]
  · simp [parseText, hexUnit_eq ha hb hc hd]

theorem parseText_pieces {items : List TextItem} {pieces : List (List Char)} (h : List.Forall₂ WritesItem items pieces)
    (rest : List Char) : parseText (pieces.flatten ++ rest) = items.foldr consItem (parseText rest) := by
  induction h with
  | nil => rfl
  | cons hitem _ ih => rw [List.flatten_cons, List.append_assoc, parseText_item hitem, ih, List.foldr_cons]

theorem foldr_consItem (items : List TextItem) (rest : List Char) :
    items.foldr consItem (some ([], rest)) = some (items, rest) := by
  induction items with
  | nil => rfl
  | cons item items ih => rw [List.foldr_cons, ih, consItem]

/-- Between its quotes the text is read item by item, and the closing quote ends it. -/
theorem parseQuoted_pieces {gap tail : List Char} {items : List TextItem} {pieces : List (List Char)}
    (hgap : IsGap gap) (h : List.Forall₂ WritesItem items pieces) (htail : IsLineEnd tail)
    (make : List TextItem → AsmLine) :
    parseQuoted make (gap ++ '"' :: (pieces.flatten ++ '"' :: tail)) = .ok (some (make items)) := by
  have hquote : ∀ cs, ('"' :: cs).dropWhile isBlank = '"' :: cs := fun _ => rfl
  simp only [parseQuoted, dropWhile_gap_append hgap, hquote, parseText_pieces h, parseText, foldr_consItem]
  exact finishLine_ok (restIsComment_of_isLineEnd htail) _

/-- A line of a pseudo-instruction is taken with every quoted text. -/
theorem assembleTextLine_quoted {mnemonic lead name gap tail : List Char} {items : List TextItem}
    {pieces : List (List Char)} {make : List TextItem → AsmLine}
    (hnamed : ∀ rest, parseNamed mnemonic rest = parseQuoted make rest) (hne : mnemonic ≠ [])
    (hends : mnemonic.any endsMnemonic = false) (hlead : IsGap lead) (hgap : IsGap gap) (hgap_ne : gap ≠ [])
    (htail : IsLineEnd tail) (hitems : List.Forall₂ WritesItem items pieces) (hname : IsMnemonic mnemonic name) :
    assembleTextLine (lead ++ name ++ gap ++ '"' :: (pieces.flatten ++ '"' :: tail)) = assembleLine (make items) := by
  rw [List.append_assoc (lead ++ name)]
  refine assembleTextLine_some ?_
  rw [parseLine_mnemonic hlead hname hne hends (startsWithEnd_gap_append hgap hgap_ne _), hnamed,
    parseQuoted_pieces hgap hitems htail]

/-- Settles O49: by induction on the items, each of which is read back from the characters that write it. -/
theorem assemblerTakesQuotedTexts : Obligations.AssemblerTakesQuotedTexts := by
  unfold Obligations.AssemblerTakesQuotedTexts
  intro lead name gap tail items pieces hlead hgap hne htail hitems
  refine ⟨fun hname => ?feeds, fun hname => ?hash⟩
  case feeds =>
    rw [assembleTextLine_quoted parseNamed_feeds (by decide) rfl hlead hgap hne htail hitems hname,
      assembleLine_feeds, List.map_map]
    rfl
  case hash =>
    rw [assembleTextLine_quoted parseNamed_hash (by decide) rfl hlead hgap hne htail hitems hname,
      assembleLine_hash, List.map_map]
    rfl

end Sys2Proof.Machine
